-- ==== Sys2Proof/Word.lean ====
section
/-! DEFINITION. The word types of the block: 32-bit words, colours, pulse descriptors, result codes and host accesses
(00_scope.md R18, R21; 30_encoding.md R127, R130). -/

namespace Sys2Proof

/-- A register, a command word, a time sample: 32 bits, bit 0 the least significant (R18, R31). -/
abbrev Word := BitVec 32

/-- One byte lane of a register (R94). -/
abbrev Byte := BitVec 8

/-- A pulse descriptor: bits 31..16 the high ticks, bits 15..0 the low ticks (R130). -/
abbrev Desc := BitVec 32

/-- A colour, three 8-bit channels in the logical order (R21). -/
structure Color where
  r : BitVec 8
  g : BitVec 8
  b : BitVec 8
deriving DecidableEq, Repr, Inhabited

/-- The colour (0,0,0). -/
def Color.black : Color := ⟨0, 0, 0⟩

/-- One access a host puts on its bus: an address, a size in bytes and, for a write, the data (R127, R250, R252).
The spec gives host addresses no width, so an address is a plain number. -/
inductive Access where
  | read (addr size : Nat)
  | write (addr size : Nat) (data : Word)
deriving DecidableEq, Repr

/-- What a collaborator answers to a request (R206, R292, R293). -/
inductive Answer where
  | ok
  | fail
deriving DecidableEq, Repr

end Sys2Proof
end

