-- ==== Sys2Proof/Config.lean ====
section
/-! DEFINITION. What is fixed when a block is built (00_scope.md R8 to R15, 20_memory.md R93), the register names and
offsets (10_state.md R40), the opcodes (30_encoding.md R122), the result codes (60_exceptions.md R270), and the one free
function, the colour pipeline (R15). -/

namespace Sys2Proof

/-- The implementation parameters of a built block (R8 to R13, R93). A state carries them, so that a statement about
every state holds for every parameter set. -/
structure Params where
  /-- `MAX_STRIPS` (R9). -/
  maxStrips : Nat
  /-- `MAX_TOTAL_PIXELS` (R10). -/
  maxTotalPixels : Nat
  /-- `DEFAULT_FPS` (R11). -/
  defaultFps : BitVec 16
  /-- `T0H_TICKS` (R12). -/
  t0h : BitVec 16
  /-- `T0L_TICKS` (R12). -/
  t0l : BitVec 16
  /-- `T1H_TICKS` (R12). -/
  t1h : BitVec 16
  /-- `T1L_TICKS` (R12). -/
  t1l : BitVec 16
  /-- `RESET_TICKS` (R12). -/
  resetTicks : BitVec 16
  /-- `SRC_CLK_HZ` (R13). -/
  srcClkHz : Nat
  /-- `CLK_DIV` (R13). -/
  clkDiv : Nat
  /-- `LEDC_BASE` (R93). -/
  ledcBase : Nat
deriving DecidableEq, Repr

/-- The constraints the spec puts on the parameters (R9 to R13, R93). -/
abbrev Params.Valid (p : Params) : Prop :=
  (1 ≤ p.maxStrips ∧ p.maxStrips ≤ 16) ∧
  (1 ≤ p.maxTotalPixels ∧ p.maxTotalPixels ≤ 16 * 65535) ∧
  p.defaultFps ≠ 0 ∧
  (p.t0h ≠ 0 ∧ p.t0l ≠ 0 ∧ p.t1h ≠ 0 ∧ p.t1l ≠ 0) ∧
  (p.t0h, p.t0l) ≠ (p.t1h, p.t1l) ∧
  (0 < p.srcClkHz ∧ 0 < p.clkDiv) ∧
  50 * p.srcClkHz ≤ p.resetTicks.toNat * p.clkDiv * 1000000 ∧
  p.ledcBase % 4096 = 0

/-- The reference set `P0` with the spec's defaults (R14; R9 to R11). DESIGN CHOICE (log 2, log 3), safe: no statement
about every state rests on it. -/
def Params.p0 : Params where
  maxStrips := 8
  maxTotalPixels := 4096
  defaultFps := 60
  t0h := 16
  t0l := 34
  t1h := 32
  t1l := 18
  resetTicks := 2000
  srcClkHz := 80000000
  clkDiv := 2
  ledcBase := 0

/-- The settings of the colour pipeline that its properties P1 and P2 speak of, and everything else it is set to (R15,
R295). -/
structure Pipeline where
  brightness : BitVec 8
  gamma : Bool
  unity : Bool
  other : Nat
deriving DecidableEq, Repr, Inhabited

/-- The settings of property P1: brightness 255, gamma off, unity coefficients (R15). -/
def Pipeline.p1 : Pipeline := ⟨255, false, true, 0⟩

/-- The colour pipeline where properties P1 and P2 say nothing of its value: a FREE VALUE (R15 "A model treats it as an
opaque total function"; log 8). -/
opaque Config.correctRaw : Pipeline → Color → Color

/-- The names of the register map (R40). `reserved` stands for every slot the map gives no register (R65). -/
inductive Reg where
  | id | status | cmd | result | duration | targetFps | intervalUs | lastTxTime | stripCount | initFlags
  | encColor | encReset
  | encPulse (i : Nat)
  | statShows | statLastDur | statMinDur | statMaxDur | statAvgDur | statAvgInterval | statFps | statLastStart
  | statTotalDur
  | stripPixels (s : Nat)
  | stripOutput (s : Nat)
  | reserved
deriving DecidableEq, Repr

/-- The offset of a register, in bytes from the window base (R40); a reserved slot is given the first of them. -/
def Reg.offset : Reg → Nat
  | .id => 0x000
  | .status => 0x004
  | .cmd => 0x008
  | .result => 0x00C
  | .duration => 0x010
  | .targetFps => 0x014
  | .intervalUs => 0x018
  | .lastTxTime => 0x01C
  | .stripCount => 0x020
  | .initFlags => 0x024
  | .encColor => 0x028
  | .encReset => 0x02C
  | .encPulse i => 0x030 + 4 * i
  | .statShows => 0x090
  | .statLastDur => 0x094
  | .statMinDur => 0x098
  | .statMaxDur => 0x09C
  | .statAvgDur => 0x0A0
  | .statAvgInterval => 0x0A4
  | .statFps => 0x0A8
  | .statLastStart => 0x0AC
  | .statTotalDur => 0x0B0
  | .stripPixels s => 0x100 + 8 * s
  | .stripOutput s => 0x104 + 8 * s
  | .reserved => 0x0B4

/-- The opcodes (R122). -/
def Opcode.nop : BitVec 4 := 0
def Opcode.init : BitVec 4 := 1
def Opcode.deinit : BitVec 4 := 2
def Opcode.showFrame : BitVec 4 := 3
def Opcode.showSynced : BitVec 4 := 4
def Opcode.markDirty : BitVec 4 := 5
def Opcode.resetStats : BitVec 4 := 6

/-- The result codes (R270). -/
def Code.ok : BitVec 4 := 0
def Code.invalidParameter : BitVec 4 := 1
def Code.allocationFailure : BitVec 4 := 2
def Code.hardwareConfigFailure : BitVec 4 := 3
def Code.transmissionFailure : BitVec 4 := 4
def Code.notInitialized : BitVec 4 := 5
def Code.busy : BitVec 4 := 6
def Code.illegalCommand : BitVec 4 := 7

end Sys2Proof
end

