-- ==== Sys2Proof/Syntax.lean ====
section
/-! DEFINITION. The operations of spec/opcode_table.json: seven commands, the illegal command word, the two bus
operations and the two encoder operations (30_encoding.md R122, 42_register_access.md, 40_encoder.md). -/

namespace Sys2Proof

/-- One constructor per row of the opcode table. A command has no operands (R123); the illegal word keeps its bits,
because `RESULT.OP` shows four of them (R279); the bus operations have the offset in the window and, for a write, the
data (R127); ENCODE has its colour (R150). -/
inductive Instr where
  /-- `NOP`, opcode 0x0 (R182). -/
  | nop
  /-- `INIT`, opcode 0x1 (R190). -/
  | init
  /-- `DEINIT`, opcode 0x2 (R195). -/
  | deinit
  /-- `SHOW`, opcode 0x3 (R201). -/
  | showFrame
  /-- `SHOW_SYNCED`, opcode 0x4 (R203). -/
  | showSynced
  /-- `MARK_DIRTY`, opcode 0x5 (R215). -/
  | markDirty
  /-- `RESET_STATS`, opcode 0x6 (R216). -/
  | resetStats
  /-- `ILLEGAL`, every other command word (R121, R279). -/
  | illegal (w : Word)
  /-- `REG_READ` at a byte offset of the window (R250). -/
  | regRead (off : BitVec 12)
  /-- `REG_WRITE` at a byte offset of the window (R252). -/
  | regWrite (off : BitVec 12) (v : Word)
  /-- `ENCODE` of a colour (R150). -/
  | encode (c : Color)
  /-- `ENCODE_RESET` (R155). -/
  | encodeReset
deriving DecidableEq, Repr

end Sys2Proof
end

