-- ==== Sys2Proof/WellFormed.lean ====
section
/-! DEFINITION. Which terms of the syntax are operations as the spec spells them (30_encoding.md R121, R125, R127). -/

namespace Sys2Proof

/-- A word that is no command: `RSVD` not 0, or an opcode 0x7 to 0xF (R121, R125). -/
def illegalWord (w : Word) : Bool :=
  w.extractLsb' 4 28 != 0 || decide (7 ≤ (w.extractLsb' 0 4).toNat)

/-- An offset of a word slot: bits 1..0 are 0 (R96, R127). -/
def wordSlot (off : BitVec 12) : Bool :=
  off.toNat % 4 == 0

/-- Well-formed operations: an illegal word is one that decodes so; an offset is a word slot; a write of CMD is spelled
as the command it carries (R120, R180), so `regWrite` has every slot but that one. Every other term is well formed. -/
def Instr.wf : Instr → Bool
  | .nop => true
  | .init => true
  | .deinit => true
  | .showFrame => true
  | .showSynced => true
  | .markDirty => true
  | .resetStats => true
  | .illegal w => illegalWord w
  | .regRead off => wordSlot off
  | .regWrite off _ => wordSlot off && off.toNat != Reg.cmd.offset
  | .encode _ => true
  | .encodeReset => true

end Sys2Proof
end

