-- ==== Sys2Proof/Decode.lean ====
section
/-! DEFINITION. Decoding a command word (30_encoding.md R120 to R126), decoding a host access (R127, 20_memory.md R93,
R94, R96), the encoder written from the same tables, and the host-program notation (R140, R141). -/

namespace Sys2Proof

/-- What a command word decodes to: `Command | Illegal` of R121. -/
inductive Command where
  | nop
  | init
  | deinit
  | showFrame
  | showSynced
  | markDirty
  | resetStats
  | illegal (w : Word)
deriving DecidableEq, Repr

/-- The command decoder (R121), total over all command words. -/
def decodeCommand (w : Word) : Command :=
  if w.extractLsb' 4 28 ≠ 0 then .illegal w
  else
    match (w.extractLsb' 0 4).toNat with
    | 0 => .nop
    | 1 => .init
    | 2 => .deinit
    | 3 => .showFrame
    | 4 => .showSynced
    | 5 => .markDirty
    | 6 => .resetStats
    | _ => .illegal w

/-- The operation a decoded command is. -/
def Command.toInstr : Command → Instr
  | .nop => .nop
  | .init => .init
  | .deinit => .deinit
  | .showFrame => .showFrame
  | .showSynced => .showSynced
  | .markDirty => .markDirty
  | .resetStats => .resetStats
  | .illegal w => .illegal w

/-- What the block makes of a host access: an operation, a bus error (R96), or nothing, because the address lies outside
the window and the access never reaches the block (R93). -/
inductive Decoded where
  | instr (i : Instr)
  | busError (addr size : Nat)
  | elsewhere
deriving DecidableEq, Repr

/-- Whether a host address lies in the window (R93). -/
def inWindow (base addr : Nat) : Bool :=
  decide (base ≤ addr) && decide (addr < base + 4096)

/-- `offset = (addr - LEDC_BASE)[11:0]` (R93). -/
def offsetOf (base addr : Nat) : BitVec 12 :=
  BitVec.ofNat 12 (addr - base)

/-- Whether an access is the one the block takes: one 32-bit word at a word slot (R96). -/
def wordAccess (base addr size : Nat) : Bool :=
  size == 4 && wordSlot (offsetOf base addr)

/-- An access of the window, decoded: a write of CMD is the command it carries (R120), any other is the bus operation
(R127); an access that is not one aligned word is a bus error (R96). -/
def decodeAccess (base : Nat) : Access → Decoded
  | .read addr size =>
    if !inWindow base addr then .elsewhere
    else if !wordAccess base addr size then .busError addr size
    else .instr (.regRead (offsetOf base addr))
  | .write addr size data =>
    if !inWindow base addr then .elsewhere
    else if !wordAccess base addr size then .busError addr size
    else if (offsetOf base addr).toNat = Reg.cmd.offset then .instr (decodeCommand data).toInstr
    else .instr (.regWrite (offsetOf base addr) data)

/-- Lane `k` of a register, `k = 0..3`: bits `8k+7..8k` (R94). -/
def byteLane (v : Word) (k : Nat) : Byte :=
  v.extractLsb' (8 * k) 8

/-- The four lanes of a word, the lowest address first (R94). -/
def lanesOf (v : Word) : List Byte :=
  [byteLane v 0, byteLane v 1, byteLane v 2, byteLane v 3]

/-- The operation that the bytes of a command word give, the lowest lane first (R94). Any other number of bytes is no
command word (R126: "exactly one 32-bit word") and is rejected. -/
def decodeBytes : List Byte → Option Instr
  | [b0, b1, b2, b3] => some (decodeCommand (b3 ++ b2 ++ b1 ++ b0)).toInstr
  | _ => none

/-- The first `n` byte lanes of a number, the least significant first. -/
def natLanes : Nat → Nat → List Byte
  | 0, _ => []
  | n + 1, w => BitVec.ofNat 8 w :: natLanes n (w / 256)

/-- The host's question: the operation read from a word of the opcode table, bit 0 the least significant (R18). A
command word has four bytes; the bits a shorter row does not give are 0. -/
def decodeTableWord (nbits w : Nat) : Option Instr :=
  decodeBytes (natLanes (max 4 ((nbits + 7) / 8)) (w % 2 ^ nbits))

/-- The command word of an opcode (R120): `RSVD` is 0. -/
def commandWord (op : BitVec 4) : Word :=
  (0 : BitVec 28) ++ op

/-- A write of CMD (R43, R126). -/
def cmdWrite (base : Nat) (w : Word) : Access :=
  .write (base + Reg.cmd.offset) 4 w

/-- The encoder: the host access that is the operation (R120, R122, R127). The two encoder operations have no encoding
(R150, R155): they are internal. -/
def encode (base : Nat) : Instr → Option Access
  | .nop => some (cmdWrite base (commandWord Opcode.nop))
  | .init => some (cmdWrite base (commandWord Opcode.init))
  | .deinit => some (cmdWrite base (commandWord Opcode.deinit))
  | .showFrame => some (cmdWrite base (commandWord Opcode.showFrame))
  | .showSynced => some (cmdWrite base (commandWord Opcode.showSynced))
  | .markDirty => some (cmdWrite base (commandWord Opcode.markDirty))
  | .resetStats => some (cmdWrite base (commandWord Opcode.resetStats))
  | .illegal w => some (cmdWrite base w)
  | .regRead off => some (.read (base + off.toNat) 4)
  | .regWrite off v => some (.write (base + off.toNat) 4 v)
  | .encode _ => none
  | .encodeReset => none

/-- `rd <REG>` (R140). -/
def asmRd (base : Nat) (r : Reg) : Access :=
  .read (base + r.offset) 4

/-- `wr <REG>, <value>` (R140). -/
def asmWr (base : Nat) (r : Reg) (v : Word) : Access :=
  .write (base + r.offset) 4 v

/-- `cmd <OPNAME>` (R141). -/
def asmCmd (base : Nat) (op : BitVec 4) : List Access :=
  [asmWr base .cmd (commandWord op)]

/-- `poll <REG>, <mask>, <value>` compiled to `k` reads; the host decides how many (R141). -/
def asmPoll (base : Nat) (r : Reg) (k : Nat) : List Access :=
  List.replicate k (asmRd base r)

/-- Whether a value read ends a `poll` (R141). -/
def pollDone (v mask value : Word) : Bool :=
  v &&& mask == value

/-- `wait_idle`, which is `poll STATUS, 0x2, 0x0` (R141). -/
def asmWaitIdle (base k : Nat) : List Access :=
  asmPoll base .status k

/-- The strip lines of `layout`, from strip `s` on (R141). -/
def asmStrips (base : Nat) : Nat → List (BitVec 16 × BitVec 8) → List Access
  | _, [] => []
  | s, (p, id) :: rest =>
    asmWr base (.stripPixels s) (p.zeroExtend 32) :: asmWr base (.stripOutput s) (id.zeroExtend 32)
      :: asmStrips base (s + 1) rest

/-- `layout <n>, (<p0>, <id0>), ...` (R141). -/
def asmLayout (base : Nat) (strips : List (BitVec 16 × BitVec 8)) : List Access :=
  asmWr base .stripCount (BitVec.ofNat 32 strips.length) :: asmStrips base 0 strips

/-- `show_wait` with `k` polls (R141). -/
def asmShowWait (base k : Nat) : List Access :=
  asmCmd base Opcode.showFrame ++ asmWaitIdle base k ++ [asmRd base .result]

end Sys2Proof
end

