-- ==== Sys2Proof/Machine/State.lean ====
section
/-! DEFINITION. The state: the block's own tuple (10_state.md R33), the parameters it was built with (00_scope.md R8), and
the environment around it (R23), held as plain data so that one deterministic step runs every interleaving (20_memory.md
R100). The reset values are R69's. -/

namespace Sys2Proof.Machine

/-- The lifecycle state (R21, R34). -/
inductive Life where
  | uninitialized
  | initialized
deriving DecidableEq, Repr

/-- The phase (R21, R35). -/
inductive Phase where
  | idle
  | transmitting
deriving DecidableEq, Repr

/-- The statistics record (R33, R54 to R62). -/
structure Stats where
  shows : Word
  last : Word
  min : Word
  max : Word
  avg : Word
  avgIv : Word
  lastStart : Word
  total : Word
deriving DecidableEq, Repr

/-- The statistics at reset and after `RESET_STATS` (R69, R216). -/
def Stats.reset : Stats where
  shows := 0
  last := 0
  min := 0xFFFFFFFF
  max := 0
  avg := 0
  avgIv := 0
  lastStart := 0
  total := 0

/-- The complete state of the block, the tuple of R33. -/
structure Block where
  /-- `st.life` (R34). -/
  life : Life
  /-- `st.phase` (R35). -/
  phase : Phase
  /-- `st.dirty` (R36). -/
  dirty : Bool
  /-- `st.tx_seen` (R37). -/
  txSeen : Bool
  /-- `st.last_tx_time` (R38). -/
  lastTxTime : Word
  /-- `st.t_start` (R39). -/
  tStart : Word
  /-- `st.pend`, a set, as a strictly ascending list (R39). -/
  pend : List Nat
  /-- `st.fail_seen` (R39). -/
  failSeen : Bool
  /-- `st.op` (R39). -/
  op : BitVec 4
  /-- `st.res_code` (R44). -/
  resCode : BitVec 4
  /-- `st.res_tx` (R44). -/
  resTx : Bool
  /-- `st.res_op` (R44). -/
  resOp : BitVec 4
  /-- `st.duration` (R45). -/
  duration : Word
  /-- `st.target_fps` (R46). -/
  targetFps : BitVec 16
  /-- `st.strip_count` (R49). -/
  stripCount : BitVec 8
  /-- `st.init_flags` (R50). -/
  initFlags : Word
  /-- `st.enc_color` (R51). -/
  encColor : Color
  /-- `st.strip_pixels[s]`, `s < MAX_STRIPS` (R63). -/
  stripPixels : List (BitVec 16)
  /-- `st.strip_output[s]`, `s < MAX_STRIPS` (R64). -/
  stripOutput : List (BitVec 8)
  /-- `st.stat` (R54 to R62). -/
  stat : Stats
deriving DecidableEq, Repr

/-- The block after hardware reset (R69, R310). -/
def Block.reset (p : Params) : Block where
  life := .uninitialized
  phase := .idle
  dirty := false
  txSeen := false
  lastTxTime := 0
  tStart := 0
  pend := []
  failSeen := false
  op := 0
  resCode := 0
  resTx := false
  resOp := 0
  duration := 0
  targetFps := p.defaultFps
  stripCount := 0
  initFlags := 0
  encColor := Color.black
  stripPixels := List.replicate p.maxStrips 0
  stripOutput := List.replicate p.maxStrips 0
  stat := Stats.reset

/-- The front buffer's contents: (flat index, colour) pairs, the indices strictly rising, none holding what an unlisted
index reads as (R16, R92). The unit is the whole `Color`: the spec gives the buffer no byte layout (log 7). -/
abbrev Memory := List (Nat × Color)

/-- What an index nothing has written reads as. DESIGN CHOICE (log 7), unsafe: the spec gives the buffer no contents. -/
def Memory.unlisted : Color := Color.black

/-- The canonical form of a front buffer. -/
abbrev Memory.wf (m : Memory) : Prop :=
  (m.map Prod.fst).Pairwise (· < ·) ∧ ∀ e ∈ m, e.2 ≠ Memory.unlisted

/-- A request the block hands to a collaborator (R20, R290 to R295). -/
inductive Request where
  /-- `AllocReq(total, prefer_large_pool, double_buffer)` (R292). -/
  | alloc (total : Nat) (preferLargePool doubleBuffer : Bool)
  /-- `Release` (R292). -/
  | release
  /-- `ConfigReq(ids)` (R293). -/
  | config (ids : List (BitVec 8))
  /-- `BrightnessCap(max_brightness)` (R192, R295). -/
  | brightnessCap (level : BitVec 8)
  /-- `TxReq(s, id, L)` (R134, R290). -/
  | tx (strip : Nat) (id : BitVec 8) (pulses : List Desc)
deriving DecidableEq, Repr

/-- What the collaborators choose in one step: the allocation answer (R292), the configuration answer (R293), and the
flat indices whose raced read returns the new colour (R205). -/
structure Draws where
  alloc : Answer
  config : Answer
  taken : List Nat
deriving DecidableEq, Repr

/-- What an agent outside the block does next (R23). -/
inductive Event where
  /-- The host, or the buffer manager writing `MARK_DIRTY`, accesses the window (R23, R289). -/
  | host (a : Access)
  /-- The transmission primitive answers for a strip (R206). -/
  | answer (strip : Nat) (a : Answer)
  /-- Hardware reset (R310). -/
  | reset
  /-- The buffer manager writes one pixel of the front buffer (R92, R102). -/
  | paint (i : Nat) (c : Color)
  /-- The buffer manager makes another buffer the front one, with these contents (R92, R320). -/
  | swap (buf : List (Nat × Color))
  /-- The application changes the colour pipeline's settings (R295). -/
  | pipeline (p : Pipeline)
deriving DecidableEq, Repr

/-- One input: the microseconds that pass before it, what happens, and the draws of that step. -/
structure Input where
  dt : Nat
  ev : Event
  draw : Draws
deriving DecidableEq, Repr

/-- The environment of the block: the agents' next inputs in their interleaving (R100), the time (R17), the draws of the
step, the front buffer, the colour pipeline, what has been handed out, and what the last read and the last encoding
returned. None of it is state of the block (R33). -/
structure Env where
  /-- Inputs not yet taken, the next one first. -/
  inbox : List Input
  /-- Real time in microseconds, not wrapped; `time_us` is its low 32 bits (R17). -/
  now : Nat
  /-- The draws of the step that runs. -/
  draw : Draws
  /-- The front buffer (R16). -/
  fb : Memory
  /-- The settings behind `Correct` now (R15). -/
  pipe : Pipeline
  /-- The settings in force at the latest issue (R205). -/
  pipeAtIssue : Pipeline
  /-- Every request handed out, the oldest first (R20). -/
  sent : List Request
  /-- Where in `sent` the latest attempt's requests begin (R200). -/
  attemptAt : Nat
  /-- The word the last `REG_READ` returned (R250). -/
  rdata : Word
  /-- The descriptors the last `ENCODE` or `ENCODE_RESET` returned (R150, R155). -/
  descs : List Desc
deriving DecidableEq, Repr

/-- The environment at reset. Every value is the model's (log 4 to log 10). -/
def Env.reset : Env where
  inbox := []
  now := 0
  draw := ⟨.ok, .ok, []⟩
  fb := []
  pipe := Pipeline.p1
  pipeAtIssue := Pipeline.p1
  sent := []
  attemptAt := 0
  rdata := 0
  descs := []

/-- The machine: the parameters, the block, the environment. -/
structure State where
  cfg : Params
  blk : Block
  env : Env
deriving DecidableEq, Repr

/-- A block built with parameters `p`, right after reset. -/
def State.resetWith (p : Params) : State where
  cfg := p
  blk := Block.reset p
  env := Env.reset

/-- The machine right after reset (R69, R310), with the spec's default and reference parameters (log 2). -/
def State.reset : State := State.resetWith Params.p0

/-- What stops the machine. -/
inductive Fault where
  /-- `BusError(addr, size)`: raised by the decoder of host accesses, by `REG_READ` and by `REG_WRITE`, for an access of
  the window that is not one aligned 32-bit word (R96, R280). Safe: the spec names this fault and no state changes. -/
  | busError (addr size : Nat)
deriving DecidableEq, Repr

/-- Why an operation would have no meaning. -/
inductive Refusal where
  /-- An operation with no meaning in the model: raised by no arm, since every operation has one. Safe. -/
  | notModelled (mnemonic : String)
deriving DecidableEq, Repr

end Sys2Proof.Machine
end

