-- ==== Sys2Proof/Machine/Buffer.lean ====
section
/-! DEFINITION. The front buffer: reading one whole colour, writing one, and taking a new front buffer (00_scope.md R16,
20_memory.md R92, R98). Every write keeps the canonical form. -/

namespace Sys2Proof.Machine

/-- `FB(i)`: the colour at a flat index (R16). -/
def Memory.read : Memory → Nat → Color
  | [], _ => Memory.unlisted
  | (k, c) :: rest, i => if k = i then c else Memory.read rest i

/-- A write of one pixel by the buffer manager (R98: a whole colour). An index that now holds what an unlisted one reads
as is not listed. -/
def Memory.write : Memory → Nat → Color → Memory
  | [], i, c => if c = Memory.unlisted then [] else [(i, c)]
  | (k, d) :: rest, i, c =>
    if i < k then (if c = Memory.unlisted then (k, d) :: rest else (i, c) :: (k, d) :: rest)
    else if i = k then (if c = Memory.unlisted then rest else (i, c) :: rest)
    else (k, d) :: Memory.write rest i c

/-- A front buffer with the listed contents, a later entry over an earlier one. -/
def Memory.ofList (buf : List (Nat × Color)) : Memory :=
  buf.foldl (fun m e => m.write e.1 e.2) []

end Sys2Proof.Machine
end

