-- ==== Sys2Proof/Machine/Operands.lean ====
section
/-! DEFINITION. Operand forms: the fields a register write is assembled from (10_state.md R46 to R51, R63, R64,
30_encoding.md R123), the register an offset names (R40, R65), and the layout quantities the commands read (R67, R68,
41_scheduler.md R191). -/

namespace Sys2Proof.Machine

/-- `TARGET_FPS`, `STRIP_PIXELS[s]`: bits 15..0 (R46, R63). -/
def field16 (v : Word) : BitVec 16 := v.extractLsb' 0 16

/-- `STRIP_COUNT`, `STRIP_OUTPUT[s]`: bits 7..0 (R49, R64). -/
def field8 (v : Word) : BitVec 8 := v.extractLsb' 0 8

/-- `INIT_FLAGS`: the bits that are not reserved (R50, R252). -/
def fieldFlags (v : Word) : Word := v &&& 0x0000FF03

/-- `ENC_COLOR`: red, green, blue in bits 23..16, 15..8, 7..0 (R51). -/
def fieldColor (v : Word) : Color :=
  ⟨v.extractLsb' 16 8, v.extractLsb' 8 8, v.extractLsb' 0 8⟩

/-- The word `ENC_COLOR` reads as (R51, R251). -/
def colorWord (c : Color) : Word := (0 : BitVec 8) ++ c.r ++ c.g ++ c.b

/-- `PREFER_LARGE_POOL`, bit 0 (R50). -/
def preferLargePool (flags : Word) : Bool := flags.getLsbD 0

/-- `DOUBLE_BUFFER`, bit 1 (R50). -/
def doubleBuffer (flags : Word) : Bool := flags.getLsbD 1

/-- `MAX_BRIGHTNESS`, bits 15..8 (R50). -/
def maxBrightness (flags : Word) : BitVec 8 := flags.extractLsb' 8 8

/-- `OP = w[3:0]` (R181). -/
def opField (w : Word) : BitVec 4 := w.extractLsb' 0 4

/-- The registers of the word slots from offset 0x000 up, in the order of R40. -/
def lowRegs : List Reg :=
  [.id, .status, .cmd, .result, .duration, .targetFps, .intervalUs, .lastTxTime, .stripCount, .initFlags, .encColor,
    .encReset] ++ (List.range 24).map Reg.encPulse ++
  [.statShows, .statLastDur, .statMinDur, .statMaxDur, .statAvgDur, .statAvgInterval, .statFps, .statLastStart,
    .statTotalDur]

/-- The register at a byte offset that is a word slot (R40). Slots the map does not name, and the strip slots from
`MAX_STRIPS` on, are reserved (R65). -/
def regOf (maxStrips o : Nat) : Reg :=
  if o < 0x100 then lowRegs.getD (o / 4) .reserved
  else if o < 0x180 ∧ (o - 0x100) / 8 < maxStrips then
    if o % 8 = 0 then .stripPixels ((o - 0x100) / 8) else .stripOutput ((o - 0x100) / 8)
  else .reserved

/-- `st.strip_pixels[s]` as a number (R63). -/
def pixelsOf (b : Block) (s : Nat) : Nat := (b.stripPixels.getD s 0).toNat

/-- `st.strip_output[s]` (R64). -/
def outputOf (b : Block) (s : Nat) : BitVec 8 := b.stripOutput.getD s 0

/-- `base(s)`: the pixels of the strips before `s`, computed exactly (R67). -/
def baseOf (b : Block) (s : Nat) : Nat := ((List.range s).map (pixelsOf b)).sum

/-- `total`: the pixels of all strips of the layout (R67). -/
def totalOf (b : Block) : Nat := baseOf b b.stripCount.toNat

/-- `flat(s, j)` (R67). -/
def flat (b : Block) (s j : Nat) : Nat := baseOf b s + j

/-- `unflat` along a list of pixel counts, the first of them strip `s`. -/
def unflatIn : List Nat → Nat → Nat → Option (Nat × Nat)
  | [], _, _ => none
  | n :: rest, s, i => if i < n then some (s, i) else unflatIn rest (s + 1) (i - n)

/-- `unflat(i)`: the strip and local index of a flat index, none where it is out of range (R68). -/
def unflat (b : Block) (i : Nat) : Option (Nat × Nat) :=
  unflatIn ((List.range b.stripCount.toNat).map (pixelsOf b)) 0 i

/-- `layout_ok()` (R191). -/
def layoutOk (p : Params) (b : Block) : Bool :=
  decide (1 ≤ b.stripCount.toNat) && decide (b.stripCount.toNat ≤ p.maxStrips) &&
    decide (1 ≤ totalOf b) && decide (totalOf b ≤ p.maxTotalPixels)

/-- The output identifiers of the layout's strips, in order (R190). -/
def outputIds (b : Block) : List (BitVec 8) :=
  (List.range b.stripCount.toNat).map (outputOf b)

end Sys2Proof.Machine
end

