-- ==== Sys2Proof/Machine/Flags.lean ====
section
/-! DEFINITION. The words STATUS and RESULT show, the throttle gate, and the statistics (10_state.md R42, R44, R47, R60,
41_scheduler.md R202, R220 to R223, 00_scope.md R19). -/

namespace Sys2Proof.Machine

/-- `STATUS` (R42): TX_SEEN, DIRTY, BUSY, INIT in bits 3..0. -/
def statusWord (b : Block) : Word :=
  (0 : BitVec 28) ++ BitVec.ofBool b.txSeen ++ BitVec.ofBool b.dirty ++
    BitVec.ofBool (b.phase == .transmitting) ++ BitVec.ofBool (b.life == .initialized)

/-- `RESULT` (R44): OP in 19..16, TRANSMITTED in 8, CODE in 3..0. -/
def resultWord (b : Block) : Word :=
  (0 : BitVec 12) ++ b.resOp ++ (0 : BitVec 7) ++ BitVec.ofBool b.resTx ++ (0 : BitVec 4) ++ b.resCode

/-- `1_000_000 / st.target_fps`, the minimum interval in microseconds (R47). The guard `target_fps ≥ 1` is R46's. -/
def intervalUs (fps : BitVec 16) : Word := BitVec.ofNat 32 (1000000 / fps.toNat)

/-- `STAT_FPS` from the averaged interval (R60). -/
def fpsOf (avgIv : Word) : Word :=
  if avgIv = 0 then 0 else BitVec.ofNat 32 (1000000 / avgIv.toNat)

/-- `gate_open(t)` (R202): no attempt yet, or the wrapping elapsed time has reached the interval. -/
def gateOpen (b : Block) (t : Word) : Bool :=
  !b.txSeen || decide ((intervalUs b.targetFps).toNat ≤ (t - b.lastTxTime).toNat)

/-- `sat32(x)` (R19). -/
def sat32 (x : Nat) : Word := BitVec.ofNat 32 (min x 0xFFFFFFFF)

/-- The unsigned minimum (R19). -/
def umin (a b : Word) : Word := if b.toNat < a.toNat then b else a

/-- The unsigned maximum (R19). -/
def umax (a b : Word) : Word := if a.toNat < b.toNat then b else a

/-- `avg_step(m, a, x)` (R222). -/
def avgStep (m : Nat) (a x : Word) : Word :=
  if m = 0 then x else BitVec.ofNat 32 ((7 * a.toNat + x.toNat) / 8)

/-- `stats_update(d, t0)` (R220), every right-hand side from before the update. -/
def statsUpdate (st : Stats) (d t0 : Word) : Stats where
  shows := sat32 (st.shows.toNat + 1)
  last := d
  min := umin st.min d
  max := umax st.max d
  avg := avgStep st.shows.toNat st.avg d
  avgIv := if 1 ≤ st.shows.toNat then avgStep (st.shows.toNat - 1) st.avgIv (t0 - st.lastStart) else st.avgIv
  lastStart := t0
  total := sat32 (st.total.toNat + d.toNat)

end Sys2Proof.Machine
end

