-- ==== Sys2Proof/Machine/Pulse.lean ====
section
/-! DEFINITION. Pulse descriptors: the two bit profiles, ENCODE, ENCODE_RESET, a strip's list, the colour pipeline, and
the ticks and times of a list (40_encoder.md, 30_encoding.md R130 to R134, 41_scheduler.md R204, 00_scope.md R13, R15,
70_reset_and_hazards.md R336). -/

namespace Sys2Proof.Machine

/-- `D0`, the logical-0 profile (R152). -/
def profile0 (p : Params) : Desc := p.t0h ++ p.t0l

/-- `D1`, the logical-1 profile (R152). -/
def profile1 (p : Params) : Desc := p.t1h ++ p.t1l

/-- `sel(bit)` (R151). -/
def sel (p : Params) (bit : Bool) : Desc := if bit then profile1 p else profile0 p

/-- `W = {c.g, c.r, c.b}` (R133). -/
def wireWord (c : Color) : BitVec 24 := c.g ++ c.r ++ c.b

/-- `ENCODE(c)`: the `k`-th of its 24 descriptors stands for bit `23 - k` of the wire word (R150). -/
def pulses (p : Params) (c : Color) : List Desc :=
  (List.range 24).map fun k => sel p ((wireWord c).getLsbD (23 - k))

/-- `ENCODE_RESET()` (R155, R132). -/
def resetPulse (p : Params) : Desc := (0 : BitVec 16) ++ p.resetTicks

/-- `HIGH` of a descriptor (R130). -/
def highTicks (d : Desc) : Nat := (d.extractLsb' 16 16).toNat

/-- `LOW` of a descriptor (R130). -/
def lowTicks (d : Desc) : Nat := (d.extractLsb' 0 16).toNat

/-- `Correct` under the pipeline's settings: identity where property P1 says so, black where P2 says so, a free value
elsewhere (R15; log 8). -/
def correct (pipe : Pipeline) (c : Color) : Color :=
  if pipe.brightness = 0 then Color.black
  else if pipe.brightness = 255 ∧ pipe.gamma = false ∧ pipe.unity = true then c
  else Config.correctRaw pipe c

/-- The descriptors of `n` pixels of the front buffer, from flat index `i` on (R204). -/
def pixelPulses (p : Params) (pipe : Pipeline) (fb : Memory) (i n : Nat) : List Desc :=
  (List.range n).flatMap fun j => pulses p (correct pipe (fb.read (i + j)))

/-- `L_s`, the pulse list of strip `s` (R204). -/
def stripList (p : Params) (pipe : Pipeline) (fb : Memory) (b : Block) (s : Nat) : List Desc :=
  pixelPulses p pipe fb (baseOf b s) (pixelsOf b s) ++ [resetPulse p]

/-- The 24 descriptors of pixel `j` of a list, replaced by those of another colour. -/
def recolor (p : Params) (l : List Desc) (j : Nat) (c : Color) : List Desc :=
  l.take (24 * j) ++ pulses p c ++ l.drop (24 * j + 24)

/-- The ticks a list takes on the wire, `Σ (HIGH + LOW)` (R336). -/
def wireTicks (l : List Desc) : Nat :=
  (l.map fun d => highTicks d + lowTicks d).sum

/-- `W_s` of a list as a fraction of a second: ticks times `CLK_DIV`, over `SRC_CLK_HZ` (R336). -/
def wireTime (p : Params) (l : List Desc) : Nat × Nat :=
  (wireTicks l * p.clkDiv, p.srcClkHz)

/-- The ticks of a duration in nanoseconds, rounded half up (R13, R19). -/
def ticksOfNs (p : Params) (ns : Nat) : Nat :=
  (2 * (ns * p.srcClkHz) + p.clkDiv * 1000000000) / (2 * (p.clkDiv * 1000000000))

end Sys2Proof.Machine
end

