-- ==== Sys2Proof/Machine/Ops.lean ====
section
/-! DEFINITION. The operations the meanings share: writing the result, rejecting a command, handing out a request,
starting an attempt, a strip's answer and the completion, hardware reset (41_scheduler.md R180, R181, R200, R206 to R209,
60_exceptions.md R270, R271, R275, 70_reset_and_hazards.md R310). The block takes no trap (R282), so there is no exception
entry and no return: a rejected command is `reject`. -/

namespace Sys2Proof.Machine

/-- `set_result(code, tx, op)` (R181). -/
def setResult (code : BitVec 4) (tx : Bool) (op : BitVec 4) (s : State) : State :=
  { s with blk := { s.blk with resCode := code, resTx := tx, resOp := op } }

/-- A command that ends with a code other than OK: `RESULT` records it with `TRANSMITTED = 0`, nothing else changes (R20
`raise`, R270, R271). -/
def reject (code op : BitVec 4) (s : State) : State :=
  setResult code false op s

/-- `emit` (R20): the request is handed out after the earlier ones. -/
def emit (r : Request) (s : State) : State :=
  { s with env := { s.env with sent := s.env.sent ++ [r] } }

/-- `time_us` (R17): real time modulo 2^32. -/
def timeUs (s : State) : Word := BitVec.ofNat 32 s.env.now

/-- The checks of `accept` after the Illegal one, in R275's order, for a legal command with opcode `op`. -/
def accept (op : BitVec 4) (b : Block) : BitVec 4 :=
  if b.phase = .transmitting ∧ op ≠ Opcode.nop ∧ op ≠ Opcode.markDirty then Code.busy
  else if b.life = .uninitialized ∧
      (op = Opcode.showFrame ∨ op = Opcode.showSynced ∨ op = Opcode.markDirty) then Code.notInitialized
  else Code.ok

/-- One command: rejected by `accept`, or its body (R180). -/
def runCommand (op : BitVec 4) (body : State → State) (s : State) : State :=
  if accept op s.blk = Code.ok then body s else reject (accept op s.blk) op s

/-- The requests of an attempt, one per strip in ascending order (R200, R204). -/
def txRequests (s : State) : List Request :=
  (List.range s.blk.stripCount.toNat).map fun k =>
    .tx k (outputOf s.blk k) (stripList s.cfg s.env.pipe s.env.fb s.blk k)

/-- `issue(op, t)` (R200), with `Correct` latched (R205). -/
def issue (op : BitVec 4) (t : Word) (s : State) : State :=
  { s with
    blk := { s.blk with
      tStart := t, lastTxTime := t, txSeen := true, op := op, failSeen := false,
      pend := List.range s.blk.stripCount.toNat, phase := .transmitting }
    env := { s.env with
      sent := s.env.sent ++ txRequests s, attemptAt := s.env.sent.length, pipeAtIssue := s.env.pipe } }

/-- `success_show(d)` (R208). -/
def successShow (d : Word) (s : State) : State :=
  setResult Code.ok true s.blk.op
    { s with blk := { s.blk with
        duration := d, stat := statsUpdate s.blk.stat d s.blk.tStart, dirty := false } }

/-- `failure_show()` (R209). -/
def failureShow (s : State) : State :=
  reject Code.transmissionFailure s.blk.op s

/-- The end of an attempt: `st.phase <- Idle` (R207). -/
def toIdle (s : State) : State :=
  { s with blk := { s.blk with phase := .idle } }

/-- `complete()` (R207). -/
def complete (s : State) : State :=
  toIdle (if s.blk.failSeen then failureShow s else successShow (timeUs s - s.blk.tStart) s)

/-- The bookkeeping of an answer: the strip leaves `pend`, a failure is remembered (R206). -/
def noteAnswer (strip : Nat) (a : Answer) (s : State) : State :=
  { s with blk := { s.blk with
      pend := s.blk.pend.filter (· != strip), failSeen := s.blk.failSeen || a == .fail } }

/-- `answer(s, a)` (R206): ignored unless the strip is pending in an attempt; the last answer completes it. An answer names
its strip and no attempt, so one of an attempt that a reset abandoned (R311) counts for the attempt in which that strip is
pending now (DESIGN CHOICE, log 19). -/
def answer (strip : Nat) (a : Answer) (s : State) : State :=
  if s.blk.phase = .transmitting ∧ strip ∈ s.blk.pend then
    if (noteAnswer strip a s).blk.pend = [] then complete (noteAnswer strip a s) else noteAnswer strip a s
  else s

/-- Hardware reset (R310): every element of the tuple at its reset value, no request, the environment as it was (R311,
R312). -/
def hardwareReset (s : State) : State :=
  { s with blk := Block.reset s.cfg }

end Sys2Proof.Machine
end

