-- ==== Sys2Proof/Machine/Encoder.lean ====
section
/-! DEFINITION. The meanings of the two encoder operations (40_encoder.md R150, R155). They write no state of the block:
what they return stands in `env.descs`. -/

namespace Sys2Proof.Machine

/-- What an encoder operation returns to whoever asked. -/
def returnDescs (l : List Desc) (s : State) : State :=
  { s with env := { s.env with descs := l } }

/-- `ENCODE(c)` (R150). -/
def execEncode (c : Color) (s : State) : Host.Outcome State Fault Refusal :=
  .next (returnDescs (pulses s.cfg c) s)

/-- `ENCODE_RESET()` (R155). -/
def execEncodeReset (s : State) : Host.Outcome State Fault Refusal :=
  .next (returnDescs [resetPulse s.cfg] s)

end Sys2Proof.Machine
end

