-- ==== Sys2Proof/Machine/Scheduler.lean ====
section
/-! DEFINITION. The meanings of the seven commands and of the illegal command word (41_scheduler.md R182 to R216,
60_exceptions.md R279). -/

namespace Sys2Proof.Machine

/-- `NOP` (R182). -/
def execNop (s : State) : Host.Outcome State Fault Refusal :=
  .next (runCommand Opcode.nop (setResult Code.ok false Opcode.nop) s)

/-- `AllocReq` of the layout (R190). -/
def allocReq (b : Block) : Request :=
  .alloc (totalOf b) (preferLargePool b.initFlags) (doubleBuffer b.initFlags)

/-- `success_init()` (R192). The front buffer is left as it is: what the new allocation holds is the buffer manager's to
say, by an input of its own (DESIGN CHOICE, log 18). -/
def successInit (s : State) : State :=
  setResult Code.ok false Opcode.init
    (emit (.brightnessCap (maxBrightness s.blk.initFlags))
      { s with blk := { s.blk with life := .initialized, dirty := true, txSeen := false } })

/-- `INIT` after the allocation answered ok: the configuration request and its answer (R190, R194). `Release` leaves the
front buffer as it is (DESIGN CHOICE, log 18). -/
def initConfigure (s : State) : State :=
  match s.env.draw.config with
  | .ok => successInit (emit (.config (outputIds s.blk)) s)
  | .fail => reject Code.hardwareConfigFailure Opcode.init (emit .release (emit (.config (outputIds s.blk)) s))

/-- `INIT` after the checks of the layout: the allocation request and its answer (R190, R193). The answer brings no buffer
contents with it (DESIGN CHOICE, log 18). -/
def initAllocate (s : State) : State :=
  match s.env.draw.alloc with
  | .ok => initConfigure (emit (allocReq s.blk) s)
  | .fail => reject Code.allocationFailure Opcode.init (emit (allocReq s.blk) s)

/-- The body of `INIT` (R190): the checks in R275's order. -/
def initBody (s : State) : State :=
  if s.blk.life = .initialized then reject Code.invalidParameter Opcode.init s
  else if !layoutOk s.cfg s.blk then reject Code.invalidParameter Opcode.init s
  else initAllocate s

/-- `INIT` (R190). -/
def execInit (s : State) : Host.Outcome State Fault Refusal :=
  .next (runCommand Opcode.init initBody s)

/-- The body of `DEINIT` (R195, R196). `Release` leaves the front buffer as it is (DESIGN CHOICE, log 18). -/
def deinitBody (s : State) : State :=
  if s.blk.life = .uninitialized then setResult Code.ok false Opcode.deinit s
  else
    setResult Code.ok false Opcode.deinit
      (emit .release { s with blk := { s.blk with life := .uninitialized, dirty := false, txSeen := false } })

/-- `DEINIT` (R195). -/
def execDeinit (s : State) : Host.Outcome State Fault Refusal :=
  .next (runCommand Opcode.deinit deinitBody s)

/-- The body of `SHOW` (R201). -/
def showBody (s : State) : State :=
  issue Opcode.showFrame (timeUs s) s

/-- `SHOW` (R201). -/
def execShowFrame (s : State) : Host.Outcome State Fault Refusal :=
  .next (runCommand Opcode.showFrame showBody s)

/-- The body of `SHOW_SYNCED` (R203). -/
def showSyncedBody (s : State) : State :=
  if gateOpen s.blk (timeUs s) then issue Opcode.showSynced (timeUs s) s
  else setResult Code.ok false Opcode.showSynced s

/-- `SHOW_SYNCED` (R203). -/
def execShowSynced (s : State) : Host.Outcome State Fault Refusal :=
  .next (runCommand Opcode.showSynced showSyncedBody s)

/-- The body of `MARK_DIRTY` (R215): `RESULT` is not written. -/
def markDirtyBody (s : State) : State :=
  { s with blk := { s.blk with dirty := true } }

/-- `MARK_DIRTY` (R215). -/
def execMarkDirty (s : State) : Host.Outcome State Fault Refusal :=
  .next (runCommand Opcode.markDirty markDirtyBody s)

/-- The body of `RESET_STATS` (R216). -/
def resetStatsBody (s : State) : State :=
  setResult Code.ok false Opcode.resetStats { s with blk := { s.blk with stat := Stats.reset } }

/-- `RESET_STATS` (R216). -/
def execResetStats (s : State) : Host.Outcome State Fault Refusal :=
  .next (runCommand Opcode.resetStats resetStatsBody s)

/-- An illegal command word, in every state and before every other check (R275, R279). -/
def execIllegal (w : Word) (s : State) : Host.Outcome State Fault Refusal :=
  .next (reject Code.illegalCommand (opField w) s)

/-- `exec(w)` of R180 for a decoded command. -/
def execCommand (c : Command) (s : State) : Host.Outcome State Fault Refusal :=
  match c with
  | .nop => execNop s
  | .init => execInit s
  | .deinit => execDeinit s
  | .showFrame => execShowFrame s
  | .showSynced => execShowSynced s
  | .markDirty => execMarkDirty s
  | .resetStats => execResetStats s
  | .illegal w => execIllegal w s

end Sys2Proof.Machine
end

