-- ==== Sys2Proof/Machine/RegisterAccess.lean ====
section
/-! DEFINITION. The meanings of the two bus operations, REG_READ and REG_WRITE (42_register_access.md R250 to R252). -/

namespace Sys2Proof.Machine

/-- The value of a register at the read (R251). -/
def readReg (s : State) : Reg → Word
  | .id => 0x4C454431
  | .status => statusWord s.blk
  | .cmd => 0
  | .result => resultWord s.blk
  | .duration => s.blk.duration
  | .targetFps => s.blk.targetFps.zeroExtend 32
  | .intervalUs => intervalUs s.blk.targetFps
  | .lastTxTime => s.blk.lastTxTime
  | .stripCount => s.blk.stripCount.zeroExtend 32
  | .initFlags => s.blk.initFlags
  | .encColor => colorWord s.blk.encColor
  | .encReset => resetPulse s.cfg
  | .encPulse i => (pulses s.cfg s.blk.encColor).getD i 0
  | .statShows => s.blk.stat.shows
  | .statLastDur => s.blk.stat.last
  | .statMinDur => s.blk.stat.min
  | .statMaxDur => s.blk.stat.max
  | .statAvgDur => s.blk.stat.avg
  | .statAvgInterval => s.blk.stat.avgIv
  | .statFps => fpsOf s.blk.stat.avgIv
  | .statLastStart => s.blk.stat.lastStart
  | .statTotalDur => s.blk.stat.total
  | .stripPixels k => (s.blk.stripPixels.getD k 0).zeroExtend 32
  | .stripOutput k => (s.blk.stripOutput.getD k 0).zeroExtend 32
  | .reserved => 0

/-- `read_value(offset)` (R251). -/
def readValue (s : State) (off : BitVec 12) : Word :=
  readReg s (regOf s.cfg.maxStrips off.toNat)

/-- The word a read returns to the host. -/
def returnData (v : Word) (s : State) : State :=
  { s with env := { s.env with rdata := v } }

/-- `BusError` of an access at an offset that is no word slot (R96, R250, R252). -/
def misaligned (off : BitVec 12) (s : State) : Host.Outcome State Fault Refusal :=
  .fault (.busError (s.cfg.ledcBase + off.toNat) 4)

/-- `REG_READ` (R250). -/
def execRegRead (off : BitVec 12) (s : State) : Host.Outcome State Fault Refusal :=
  if wordSlot off then .next (returnData (readValue s off) s) else misaligned off s

/-- A write of `TARGET_FPS`: 0 is ignored (R46). -/
def writeTargetFps (v : Word) (s : State) : State :=
  if field16 v ≠ 0 then { s with blk := { s.blk with targetFps := field16 v } } else s

/-- A write of `ENC_COLOR` (R51). -/
def writeEncColor (v : Word) (s : State) : State :=
  { s with blk := { s.blk with encColor := fieldColor v } }

/-- A write of a layout register: ignored while Initialized (R66). -/
def writeLayout (f : Block → Block) (s : State) : State :=
  if s.blk.life = .initialized then s else { s with blk := f s.blk }

/-- A write of a register other than CMD (R252); read-only registers and reserved slots ignore it (R65, R97). -/
def writeReg (r : Reg) (v : Word) (s : State) : State :=
  match r with
  | .targetFps => writeTargetFps v s
  | .stripCount => writeLayout (fun b => { b with stripCount := field8 v }) s
  | .initFlags => writeLayout (fun b => { b with initFlags := fieldFlags v }) s
  | .encColor => writeEncColor v s
  | .stripPixels k => writeLayout (fun b => { b with stripPixels := b.stripPixels.set k (field16 v) }) s
  | .stripOutput k => writeLayout (fun b => { b with stripOutput := b.stripOutput.set k (field8 v) }) s
  | .id => s
  | .status => s
  | .cmd => s
  | .result => s
  | .duration => s
  | .intervalUs => s
  | .lastTxTime => s
  | .encReset => s
  | .encPulse _ => s
  | .statShows => s
  | .statLastDur => s
  | .statMinDur => s
  | .statMaxDur => s
  | .statAvgDur => s
  | .statAvgInterval => s
  | .statFps => s
  | .statLastStart => s
  | .statTotalDur => s
  | .reserved => s

/-- `REG_WRITE` (R252): a write of CMD executes the command it carries (R180). -/
def execRegWrite (off : BitVec 12) (v : Word) (s : State) : Host.Outcome State Fault Refusal :=
  if !wordSlot off then misaligned off s
  else if off.toNat = Reg.cmd.offset then execCommand (decodeCommand v) s
  else .next (writeReg (regOf s.cfg.maxStrips off.toNat) v s)

end Sys2Proof.Machine
end

