-- ==== Sys2Proof/Machine/Dispatch.lean ====
section
/-! DEFINITION. One arm per operation of the opcode table. -/

namespace Sys2Proof.Machine

def exec (i : Instr) (s : State) : Host.Outcome State Fault Refusal :=
  match i with
  | .nop => Sys2Proof.Machine.execNop s
  | .init => Sys2Proof.Machine.execInit s
  | .deinit => Sys2Proof.Machine.execDeinit s
  | .showFrame => Sys2Proof.Machine.execShowFrame s
  | .showSynced => Sys2Proof.Machine.execShowSynced s
  | .markDirty => Sys2Proof.Machine.execMarkDirty s
  | .resetStats => Sys2Proof.Machine.execResetStats s
  | .illegal w => Sys2Proof.Machine.execIllegal w s
  | .regRead off => Sys2Proof.Machine.execRegRead off s
  | .regWrite off v => Sys2Proof.Machine.execRegWrite off v s
  | .encode c => Sys2Proof.Machine.execEncode c s
  | .encodeReset => Sys2Proof.Machine.execEncodeReset s

end Sys2Proof.Machine
end

