-- ==== Sys2Proof/Machine/Environment.lean ====
section
/-! DEFINITION. What the agents outside the block do to the machine: taking the next input, front-buffer writes and the
race they run with an attempt in flight (41_scheduler.md R205, 20_memory.md R102, 70_reset_and_hazards.md R320), the colour
pipeline, and the host's access (20_memory.md R93, R96). -/

namespace Sys2Proof.Machine

/-- The next input leaves the inbox: its time passes, its draws are in force (R17, R20 `draw`). -/
def takeInput (e : Input) (rest : List Input) (s : State) : State :=
  { s with env := { s.env with inbox := rest, now := s.env.now + e.dt, draw := e.draw } }

/-- One request of the attempt, strip `k`'s pixel `j` read as colour `c`. -/
def repaintRequest (p : Params) (k j : Nat) (c : Color) : Request → Request
  | .tx strip id l => .tx strip id (if strip = k then recolor p l j c else l)
  | .alloc t a b => .alloc t a b
  | .release => .release
  | .config ids => .config ids
  | .brightnessCap b => .brightnessCap b

/-- The raced read of one flat index of the attempt in flight returns what the front buffer holds now (R205), corrected
by the settings of the issue. -/
def repaint (i : Nat) (s : State) : State :=
  match unflat s.blk i with
  | none => s
  | some (k, j) =>
    { s with env := { s.env with
        sent := s.env.sent.take s.env.attemptAt ++
          (s.env.sent.drop s.env.attemptAt).map
            (repaintRequest s.cfg k j (correct s.env.pipeAtIssue (s.env.fb.read i))) } }

/-- The race of a front-buffer write with the attempt in flight: of the written indices, those the draw names are read
after the write, the others were read before it (R102, R205). -/
def race (written : Nat → Bool) (s : State) : State :=
  if s.blk.phase = .transmitting then (s.env.draw.taken.filter written).foldl (fun t i => repaint i t) s else s

/-- A new front buffer. -/
def setFront (m : Memory) (s : State) : State :=
  { s with env := { s.env with fb := m } }

/-- The buffer manager writes one pixel of the front buffer (R92, R102). -/
def paint (i : Nat) (c : Color) (s : State) : State :=
  race (· == i) (setFront (s.env.fb.write i c) s)

/-- The buffer manager swaps: a write of every pixel (R320). -/
def swapBuffers (buf : List (Nat × Color)) (s : State) : State :=
  race (fun _ => true) (setFront (Memory.ofList buf) s)

/-- The application sets the colour pipeline; an attempt in flight keeps the settings of its issue (R205, R295). -/
def setPipeline (p : Pipeline) (s : State) : State :=
  { s with env := { s.env with pipe := p } }

/-- The command word of an instruction of the opcode table, as the host's next access: a write of CMD, with no time
passing and the draws unchanged. A row of more bits than a word is given its own width, and is a bus error (R96). -/
def commandInput (s : State) (nbits w : Nat) : Input where
  dt := 0
  ev := .host (.write (s.cfg.ledcBase + Reg.cmd.offset) (max 4 ((nbits + 7) / 8)) (BitVec.ofNat 32 (w % 2 ^ nbits)))
  draw := s.env.draw

/-- That input placed before the others. -/
def pushInput (e : Input) (s : State) : State :=
  { s with env := { s.env with inbox := e :: s.env.inbox } }

end Sys2Proof.Machine
end

