-- ==== Sys2Proof/Machine/Agents.lean ====
section
/-! DEFINITION. What one input of the environment does: the host's access and the other agents' events (00_scope.md R23,
20_memory.md R93, R96, R97, 60_exceptions.md R280). -/

namespace Sys2Proof.Machine

/-- A host access: the operation it decodes to runs; an access that is no aligned word faults and takes no step (R96,
R280); one outside the window does nothing to the block (R93). -/
def hostAccess (a : Access) (s : State) : Host.Outcome State Fault Refusal :=
  match decodeAccess s.cfg.ledcBase a with
  | .instr i => exec i s
  | .busError addr size => .fault (.busError addr size)
  | .elsewhere => .next s

/-- What one input does. -/
def runEvent (ev : Event) (s : State) : Host.Outcome State Fault Refusal :=
  match ev with
  | .host a => hostAccess a s
  | .answer strip a => .next (answer strip a s)
  | .reset => .next (hardwareReset s)
  | .paint i c => .next (paint i c s)
  | .swap buf => .next (swapBuffers buf s)
  | .pipeline p => .next (setPipeline p s)

end Sys2Proof.Machine
end

