-- ==== Sys2Proof/Machine/Step.lean ====
section
/-! DEFINITION. One step: the next input of the environment, or none (20_memory.md R97, R100, 60_exceptions.md R281). -/

namespace Sys2Proof.Machine

/-- One step: with no input the block waits and keeps its state (R288, R313). -/
def step (s : State) : Host.Outcome State Fault Refusal :=
  match s.env.inbox with
  | [] => .next s
  | e :: rest => runEvent e.ev (takeInput e rest s)

/-- The next input is the host writing this command word to CMD (R120). -/
def State.withFetchWord (s : State) (nbits w : Nat) : State :=
  pushInput (commandInput s nbits w) s

end Sys2Proof.Machine
end

