-- ==== Sys2Proof/Safety.lean ====
section
/-! DEFINITION. What a sound state is, in the terms statements use: the relations between the elements of the block's
tuple, the statistics record, the lists of an attempt in flight, and the accesses a host must make (10_state.md,
41_scheduler.md R184, R204, R220, 60_exceptions.md R270, R296). -/

namespace Sys2Proof.Safety

open Sys2Proof.Machine

/-- The relations the rules keep between the elements of the tuple. -/
structure BlockInv (p : Params) (b : Block) : Prop where
  /-- `Transmitting` implies `Initialized` (R35, R184). -/
  busyInitialized : b.phase = .transmitting → b.life = .initialized
  /-- `pend` is a set, held in its one form (R39). -/
  pendAscending : b.pend.Pairwise (· < ·)
  /-- Only strips of the layout are pending (R200, R206). -/
  pendInLayout : ∀ k ∈ b.pend, k < b.stripCount.toNat
  /-- An attempt is in flight as long as some strip has not answered (R206, R207). -/
  busyPending : b.phase = .transmitting ↔ b.pend ≠ []
  /-- `TARGET_FPS` is 1..65535 (R46). -/
  fpsPositive : b.targetFps ≠ 0
  /-- The reserved bits of `INIT_FLAGS` are 0 (R33, R50). -/
  flagsReserved : b.initFlags &&& 0xFFFF00FC = 0
  /-- There are `MAX_STRIPS` pixel counts (R33). -/
  pixelSlots : b.stripPixels.length = p.maxStrips
  /-- There are `MAX_STRIPS` output identifiers (R33). -/
  outputSlots : b.stripOutput.length = p.maxStrips
  /-- The layout of an initialized block is one `INIT` accepted (R66, R191). -/
  layoutValid : b.life = .initialized → layoutOk p b = true
  /-- Result codes 8 to 15 are never produced (R270). -/
  codeDefined : b.resCode.toNat ≤ 7
  /-- `TRANSMITTED = 1` only with `OK` (R270). -/
  transmittedOk : b.resTx = true → b.resCode = 0
  /-- An attempt was started by `SHOW` or `SHOW_SYNCED` (R200). -/
  attemptOp : b.phase = .transmitting → b.op = 3 ∨ b.op = 4

/-- The statistics record: at its reset values before the first sample; after it, the last and the averaged duration lie
between the extremes, and the total is no less than the largest (R216, R220, R222; 93_implementation_defined.md I3). -/
structure StatsInv (st : Stats) : Prop where
  /-- No sample yet. -/
  empty : st.shows = 0 → st = Stats.reset
  /-- The last duration lies between the extremes. -/
  lastBounds : st.shows ≠ 0 → st.min.toNat ≤ st.last.toNat ∧ st.last.toNat ≤ st.max.toNat
  /-- So does the averaged one. -/
  avgBounds : st.shows ≠ 0 → st.min.toNat ≤ st.avg.toNat ∧ st.avg.toNat ≤ st.max.toNat
  /-- The total holds every sample, or is saturated. -/
  totalBound : st.shows ≠ 0 → st.max.toNat ≤ st.total.toNat
  /-- No interval before the second sample. -/
  firstInterval : st.shows.toNat ≤ 1 → st.avgIv = 0

/-- Request `r` is strip `k`'s of the latest attempt: its index, its output identifier, and a list of 24 descriptors a
pixel with the reset descriptor last (R134, R204). -/
def IsStripRequest (s : State) (k : Nat) (r : Request) : Prop :=
  ∃ l : List Desc, r = .tx k (outputOf s.blk k) (l ++ [resetPulse s.cfg]) ∧ l.length = 24 * pixelsOf s.blk k

/-- While an attempt is in flight, the requests from `attemptAt` on are its, one per strip in ascending order (R200). -/
def FlightInv (s : State) : Prop :=
  s.blk.phase = .transmitting →
    s.env.attemptAt + s.blk.stripCount.toNat = s.env.sent.length ∧
    ∀ k, k < s.blk.stripCount.toNat → ∃ r, s.env.sent[s.env.attemptAt + k]? = some r ∧ IsStripRequest s k r

/-- An access the host duties allow: one aligned 32-bit word, or an address outside the window (R93, R96, R296). -/
def lawfulAccess (base : Nat) (a : Access) : Bool :=
  match decodeAccess base a with
  | .instr _ => true
  | .busError _ _ => false
  | .elsewhere => true

/-- An input that leaves an attempt in flight to the primitive: any but a hardware reset and an unlawful access (R326,
R296). -/
def calmInput (base : Nat) (e : Input) : Bool :=
  match e.ev with
  | .host a => lawfulAccess base a
  | .reset => false
  | .answer _ _ => true
  | .paint _ _ => true
  | .swap _ => true
  | .pipeline _ => true

/-- The answers among the inputs, in their order. -/
def answersIn (l : List Input) : List (Nat × Answer) :=
  l.filterMap fun e =>
    match e.ev with
    | .answer k a => some (k, a)
    | .host _ => none
    | .reset => none
    | .paint _ _ => none
    | .swap _ => none
    | .pipeline _ => none

/-- The primitive's duty (R291), for the strips that wait: each gets exactly one answer among these inputs, in any order and
with anything else in between. -/
abbrev AnsweredOnce (pend : List Nat) (l : List Input) : Prop :=
  ((answersIn l).map Prod.fst).Perm pend

end Sys2Proof.Safety
end

