-- ==== Sys2Proof/Certificates/Slice0/Obligations.lean ====
section
/-! DEFINITION. The statements for the provers, family by family: commands, encoder, registers, answers and statistics,
reset, decoding and stepping, invariants and whole-machine rules. Each docstring names the rules it formalises. The fields
of `env` are the model's own record of the block's surroundings (log 4 to log 10): a statement that names one of them says
there what the spec says of the block's requests, of the word a read returns, or of the draws. -/

open Sys2Proof Sys2Proof.Machine Sys2Proof.Safety

/-! ## Commands -/

/-- R182: in every state `NOP` is accepted and writes `RESULT` only: OK, `TRANSMITTED` 0, OP 0. -/
def Obligations.NopWritesOnlyResultOk : Prop :=
  ∀ s : State, exec .nop s =
    .next { s with blk := { s.blk with resCode := 0, resTx := false, resOp := 0 } }

/-- R279: a word with `RSVD ≠ 0` or an opcode 0x7 to 0xF decodes as Illegal and, in every lifecycle state and phase,
writes `RESULT` only: IllegalCommand, OP `w[3:0]`. -/
def Obligations.IllegalWordReportsIllegalCommand : Prop :=
  ∀ (w : Word) (s : State), (w.extractLsb' 4 28 ≠ 0 ∨ 7 ≤ (w.extractLsb' 0 4).toNat) →
    decodeCommand w = .illegal w ∧
    exec (.illegal w) s =
      .next { s with blk := { s.blk with resCode := 7, resTx := false, resOp := w.extractLsb' 0 4 } }

/-- R278: while an attempt is in flight every command but `NOP` and `MARK_DIRTY` gets Busy, which writes `RESULT`
only; those two never get it. -/
def Obligations.BusyRejectsAllButNopAndMarkDirty : Prop :=
  ∀ s : State, s.blk.phase = .transmitting →
    (∀ p ∈ [(Instr.init, 1#4), (.deinit, 2#4), (.showFrame, 3#4), (.showSynced, 4#4), (.resetStats, 6#4)],
      exec p.1 s = .next { s with blk := { s.blk with resCode := 6, resTx := false, resOp := p.2 } }) ∧
    (∀ i ∈ [Instr.nop, .markDirty], ∀ t, exec i s = .next t → t.blk.resCode = 6 → s.blk.resCode = 6 ∧ i = .markDirty)

/-- R277: `SHOW`, `SHOW_SYNCED` and `MARK_DIRTY` before `INIT` get NotInitialized, which writes `RESULT` only; `NOP`,
`RESET_STATS`, `DEINIT`, `INIT` and the writes of registers other than CMD never get it. -/
def Obligations.NotInitializedRejectsMutatingCommands : Prop :=
  ∀ s : State, s.blk.phase = .idle → s.blk.life = .uninitialized →
    (∀ p ∈ [(Instr.showFrame, 3#4), (.showSynced, 4#4), (.markDirty, 5#4)],
      exec p.1 s = .next { s with blk := { s.blk with resCode := 5, resTx := false, resOp := p.2 } }) ∧
    (∀ i ∈ [Instr.nop, .resetStats, .deinit, .init], ∀ t, exec i s = .next t → t.blk.resCode ≠ 5) ∧
    (∀ (off : BitVec 12) (v : Word) (t : State), off ≠ 0x008 → exec (.regWrite off v) s = .next t →
      t.blk.resCode = s.blk.resCode ∧ t.blk.resTx = s.blk.resTx ∧ t.blk.resOp = s.blk.resOp)

/-- R191: the layout is valid iff `1 ≤ n ≤ MAX_STRIPS` and `1 ≤ total ≤ MAX_TOTAL_PIXELS`; no other check is made. -/
def Obligations.LayoutCheckIsTheThreeConditions : Prop :=
  ∀ (p : Params) (b : Block), layoutOk p b = true ↔
    (1 ≤ b.stripCount.toNat ∧ b.stripCount.toNat ≤ p.maxStrips) ∧
    1 ≤ ((List.range b.stripCount.toNat).map fun k => (b.stripPixels.getD k 0).toNat).sum ∧
    ((List.range b.stripCount.toNat).map fun k => (b.stripPixels.getD k 0).toNat).sum ≤ p.maxTotalPixels

/-- R272, R190: `INIT` while Initialized, and `INIT` with a layout that is not valid, write InvalidParameter to
`RESULT` and nothing else; no other operation raises it (`MARK_DIRTY`, reads and register writes leave a code that
stands). -/
def Obligations.InvalidParameterIsInitsAlone : Prop :=
  (∀ s : State, s.blk.phase = .idle → (s.blk.life = .initialized ∨ layoutOk s.cfg s.blk = false) →
    exec .init s = .next { s with blk := { s.blk with resCode := 1, resTx := false, resOp := 1 } }) ∧
  (∀ (i : Instr) (s t : State), i ≠ .init → (∀ v, i ≠ .regWrite 0x008 v) → exec i s = .next t →
    t.blk.resCode = 1 → s.blk.resCode = 1)

/-- R193, R273: the allocation answer fail ends `INIT` with AllocationFailure: only AllocReq is emitted, only `RESULT`
is written, the block stays Uninitialized. -/
def Obligations.InitAllocationFailure : Prop :=
  ∀ s : State, s.blk.phase = .idle → s.blk.life = .uninitialized → layoutOk s.cfg s.blk = true →
    s.env.draw.alloc = .fail →
    exec .init s = .next { s with
      blk := { s.blk with resCode := 2, resTx := false, resOp := 1 }
      env := { s.env with sent := s.env.sent ++
        [.alloc (totalOf s.blk) (s.blk.initFlags.getLsbD 0) (s.blk.initFlags.getLsbD 1)] } }

/-- R194, R274: the configuration answer fail after the allocation ends `INIT` with HardwareConfigFailure: the
allocation is released, only `RESULT` is written, the block stays Uninitialized. That the front buffer reads as before
across the Release too is the model's choice (log 18). -/
def Obligations.InitConfigurationFailureReleases : Prop :=
  ∀ s : State, s.blk.phase = .idle → s.blk.life = .uninitialized → layoutOk s.cfg s.blk = true →
    s.env.draw.alloc = .ok → s.env.draw.config = .fail →
    exec .init s = .next { s with
      blk := { s.blk with resCode := 3, resTx := false, resOp := 1 }
      env := { s.env with sent := s.env.sent ++
        [.alloc (totalOf s.blk) (s.blk.initFlags.getLsbD 0) (s.blk.initFlags.getLsbD 1),
         .config ((List.range s.blk.stripCount.toNat).map fun k => s.blk.stripOutput.getD k 0),
         .release] } }

/-- R190, R192: with both answers ok `INIT` makes the block Initialized, dirty, with no attempt seen, caps the
brightness, and reports OK; statistics, duration, last time and target rate are not changed. That the front buffer reads
as before across the new allocation too is the model's choice (log 18). -/
def Obligations.InitSucceeds : Prop :=
  ∀ s : State, s.blk.phase = .idle → s.blk.life = .uninitialized → layoutOk s.cfg s.blk = true →
    s.env.draw.alloc = .ok → s.env.draw.config = .ok →
    exec .init s = .next { s with
      blk := { s.blk with
        life := .initialized, dirty := true, txSeen := false, resCode := 0, resTx := false, resOp := 1 }
      env := { s.env with sent := s.env.sent ++
        [.alloc (totalOf s.blk) (s.blk.initFlags.getLsbD 0) (s.blk.initFlags.getLsbD 1),
         .config ((List.range s.blk.stripCount.toNat).map fun k => s.blk.stripOutput.getD k 0),
         .brightnessCap (s.blk.initFlags.extractLsb' 8 8)] } }

/-- R195, R196: `DEINIT` gets Busy during an attempt; else, Initialized, it releases the allocation and clears life,
dirty and tx_seen, and, Uninitialized, it does nothing but report OK. That the front buffer reads as before across the
Release too is the model's choice (log 18). -/
def Obligations.DeinitReleasesOrDoesNothing : Prop :=
  ∀ s : State,
    (s.blk.phase = .transmitting →
      exec .deinit s = .next { s with blk := { s.blk with resCode := 6, resTx := false, resOp := 2 } }) ∧
    (s.blk.phase = .idle → s.blk.life = .initialized → exec .deinit s = .next { s with
      blk := { s.blk with
        life := .uninitialized, dirty := false, txSeen := false, resCode := 0, resTx := false, resOp := 2 }
      env := { s.env with sent := s.env.sent ++ [.release] } }) ∧
    (s.blk.phase = .idle → s.blk.life = .uninitialized →
      exec .deinit s = .next { s with blk := { s.blk with resCode := 0, resTx := false, resOp := 2 } })

/-- R201 (with the issue of R200): an accepted `SHOW` starts an attempt at the time sample and hands out one request
per strip, in ascending order, each with the strip's pulse list; it consults neither the dirty flag nor the throttle.
During an attempt it gets Busy, and before `INIT` NotInitialized. -/
def Obligations.ShowIssuesOneRequestPerStrip : Prop :=
  ∀ s : State,
    (s.blk.phase = .transmitting →
      exec .showFrame s = .next { s with blk := { s.blk with resCode := 6, resTx := false, resOp := 3 } }) ∧
    (s.blk.phase = .idle → s.blk.life = .uninitialized →
      exec .showFrame s = .next { s with blk := { s.blk with resCode := 5, resTx := false, resOp := 3 } }) ∧
    (s.blk.phase = .idle → s.blk.life = .initialized → exec .showFrame s = .next { s with
      blk := { s.blk with
        tStart := BitVec.ofNat 32 s.env.now, lastTxTime := BitVec.ofNat 32 s.env.now, txSeen := true, op := 3,
        failSeen := false, pend := List.range s.blk.stripCount.toNat, phase := .transmitting }
      env := { s.env with
        sent := s.env.sent ++ (List.range s.blk.stripCount.toNat).map fun k =>
          .tx k (s.blk.stripOutput.getD k 0) (stripList s.cfg s.env.pipe s.env.fb s.blk k)
        attemptAt := s.env.sent.length
        pipeAtIssue := s.env.pipe } })

/-- R202, R203: an accepted `SHOW_SYNCED` starts an attempt, as `SHOW` does, if no attempt has been seen or the
wrapping elapsed time has reached `1_000_000 / target_fps`; otherwise it writes `RESULT` only, OK with `TRANSMITTED`
0. During an attempt it gets Busy, and before `INIT` NotInitialized. -/
def Obligations.ShowSyncedTransmitsIffTheGateIsOpen : Prop :=
  ∀ s : State,
    (s.blk.phase = .transmitting →
      exec .showSynced s = .next { s with blk := { s.blk with resCode := 6, resTx := false, resOp := 4 } }) ∧
    (s.blk.phase = .idle → s.blk.life = .uninitialized →
      exec .showSynced s = .next { s with blk := { s.blk with resCode := 5, resTx := false, resOp := 4 } }) ∧
    (s.blk.phase = .idle → s.blk.life = .initialized → (s.blk.txSeen = false ∨
        1000000 / s.blk.targetFps.toNat ≤ (BitVec.ofNat 32 s.env.now - s.blk.lastTxTime).toNat) →
      exec .showSynced s = .next { s with
        blk := { s.blk with
          tStart := BitVec.ofNat 32 s.env.now, lastTxTime := BitVec.ofNat 32 s.env.now, txSeen := true, op := 4,
          failSeen := false, pend := List.range s.blk.stripCount.toNat, phase := .transmitting }
        env := { s.env with
          sent := s.env.sent ++ (List.range s.blk.stripCount.toNat).map fun k =>
            .tx k (s.blk.stripOutput.getD k 0) (stripList s.cfg s.env.pipe s.env.fb s.blk k)
          attemptAt := s.env.sent.length
          pipeAtIssue := s.env.pipe } }) ∧
    (s.blk.phase = .idle → s.blk.life = .initialized → (s.blk.txSeen = true ∧
        (BitVec.ofNat 32 s.env.now - s.blk.lastTxTime).toNat < 1000000 / s.blk.targetFps.toNat) →
      exec .showSynced s = .next { s with blk := { s.blk with resCode := 0, resTx := false, resOp := 4 } })

/-- R215: an Initialized block accepts `MARK_DIRTY` in either phase: the dirty flag is set and nothing else is
written, `RESULT` neither. An Uninitialized block answers NotInitialized. -/
def Obligations.MarkDirtySetsOnlyTheFlag : Prop :=
  ∀ s : State,
    (s.blk.life = .initialized → exec .markDirty s = .next { s with blk := { s.blk with dirty := true } }) ∧
    (s.blk.life = .uninitialized →
      exec .markDirty s = .next { s with blk := { s.blk with resCode := 5, resTx := false, resOp := 5 } })

/-- R216: an idle block accepts `RESET_STATS` in both lifecycle states: the statistics take their reset values and
`RESULT` reports OK; nothing else is written. During an attempt it gets Busy. -/
def Obligations.ResetStatsClearsTheRecord : Prop :=
  ∀ s : State,
    (s.blk.phase = .transmitting →
      exec .resetStats s = .next { s with blk := { s.blk with resCode := 6, resTx := false, resOp := 6 } }) ∧
    (s.blk.phase = .idle → exec .resetStats s = .next { s with blk := { s.blk with
      stat :=
        { shows := 0, last := 0, min := 0xFFFFFFFF, max := 0, avg := 0, avgIv := 0, lastStart := 0, total := 0 }
      resCode := 0, resTx := false, resOp := 6 } })

/-- R271: a command that has written a code other than OK to `RESULT` has changed no other state of the block. -/
def Obligations.RejectionIsPrecise : Prop :=
  ∀ (i : Instr) (s t : State), exec i s = .next t → t.blk.resCode ≠ 0 →
    (t.blk.resCode, t.blk.resTx, t.blk.resOp) ≠ (s.blk.resCode, s.blk.resTx, s.blk.resOp) →
    t.blk = { s.blk with resCode := t.blk.resCode, resTx := false, resOp := t.blk.resOp }

/-- The frame of the commands (R181, R190 to R216): what each family of commands leaves unchanged. No command writes
the layout, the target rate, the encoder colour or the duration, or touches the parameters, the inputs, the time, the
front buffer, the pipeline or what reads and encodings returned. Only `RESET_STATS` writes the statistics, only `INIT`
and `DEINIT` the lifecycle, only `SHOW` and `SHOW_SYNCED` the attempt's bookkeeping. That the front buffer reads as before
across `INIT` and `DEINIT` too is the model's choice (log 18). -/
def Obligations.CommandFrame : Prop :=
  ∀ (i : Instr) (s t : State),
    i ∈ [Instr.nop, .init, .deinit, .showFrame, .showSynced, .markDirty, .resetStats] ∨ (∃ w, i = .illegal w) →
    exec i s = .next t →
    (t.cfg = s.cfg ∧
      t.env = { s.env with
        sent := t.env.sent, attemptAt := t.env.attemptAt, pipeAtIssue := t.env.pipeAtIssue } ∧
      ∀ k, t.env.fb.read k = s.env.fb.read k) ∧
    (t.blk.stripCount = s.blk.stripCount ∧ t.blk.initFlags = s.blk.initFlags ∧
      t.blk.stripPixels = s.blk.stripPixels ∧ t.blk.stripOutput = s.blk.stripOutput ∧
      t.blk.targetFps = s.blk.targetFps ∧ t.blk.encColor = s.blk.encColor ∧ t.blk.duration = s.blk.duration) ∧
    (i ≠ .resetStats → t.blk.stat = s.blk.stat) ∧
    (i ≠ .init → i ≠ .deinit → t.blk.life = s.blk.life) ∧
    (i ≠ .init → i ≠ .deinit → i ≠ .markDirty → t.blk.dirty = s.blk.dirty) ∧
    (i ≠ .showFrame → i ≠ .showSynced →
      t.blk.phase = s.blk.phase ∧ t.blk.lastTxTime = s.blk.lastTxTime ∧ t.blk.tStart = s.blk.tStart ∧
      t.blk.pend = s.blk.pend ∧ t.blk.failSeen = s.blk.failSeen ∧ t.blk.op = s.blk.op ∧
      t.env.attemptAt = s.env.attemptAt ∧ t.env.pipeAtIssue = s.env.pipeAtIssue) ∧
    (i ≠ .init → i ≠ .deinit → i ≠ .showFrame → i ≠ .showSynced →
      t.blk.txSeen = s.blk.txSeen ∧ t.env.sent = s.env.sent)

/-! ## Encoder -/

/-- R150: `ENCODE` answers 24 descriptors, the `k`-th the profile of bit `23 - k` of `{g, r, b}`, and writes no state
of the block. -/
def Obligations.EncodeReturnsTheProfilesInWireOrder : Prop :=
  ∀ (c : Color) (s : State), exec (.encode c) s = .next { s with env := { s.env with
    descs := (List.range 24).map fun k =>
      if (c.g ++ c.r ++ c.b).getLsbD (23 - k) then s.cfg.t1h ++ s.cfg.t1l else s.cfg.t0h ++ s.cfg.t0l } }

/-- R155: `ENCODE_RESET` answers the one descriptor with high 0 and low `RESET_TICKS`, and writes no state of the
block. -/
def Obligations.EncodeResetReturnsTheResetDescriptor : Prop :=
  ∀ s : State, exec .encodeReset s =
    .next { s with env := { s.env with descs := [(0 : BitVec 16) ++ s.cfg.resetTicks] } }

/-- The inference 40_encoder.md draws as its R153 ("Properties of `ENCODE`, derived from rules R150 to R152"):
`ENCODE` always has 24 descriptors, is injective, and its `k`-th element is `D1` iff bit `23 - k` of `{g, r, b}` is 1.
-/
def Obligations.EncodeIsInjective : Prop :=
  ∀ p : Params, p.Valid →
    (∀ c, (pulses p c).length = 24) ∧
    (∀ c d, pulses p c = pulses p d → c = d) ∧
    (∀ c k, k < 24 → ((pulses p c)[k]? = some (p.t1h ++ p.t1l) ↔ (c.g ++ c.r ++ c.b).getLsbD (23 - k) = true))

/-- The inference 40_encoder.md draws as its R157, from R155 and R13: the reset descriptor has no high part and holds
the line low for at least 50 µs. -/
def Obligations.ResetDescriptorLastsFiftyMicroseconds : Prop :=
  ∀ p : Params, p.Valid →
    ((resetPulse p).extractLsb' 16 16).toNat = 0 ∧
    50 * p.srcClkHz ≤ ((resetPulse p).extractLsb' 0 16).toNat * p.clkDiv * 1000000

/-- R134, R204: a strip's list has `24·n + 1` descriptors; pixel `j`'s 24 are `ENCODE(Correct(FB(flat(s, j))))`, and
the last is the reset descriptor. -/
def Obligations.StripListCoversEveryPixelAndEndsInReset : Prop :=
  ∀ (p : Params) (pipe : Pipeline) (fb : Memory) (b : Block) (k : Nat),
    (stripList p pipe fb b k).length = 24 * pixelsOf b k + 1 ∧
    (∀ j, j < pixelsOf b k →
      ((stripList p pipe fb b k).drop (24 * j)).take 24 = pulses p (correct pipe (fb.read (flat b k j)))) ∧
    (stripList p pipe fb b k)[24 * pixelsOf b k]? = some (resetPulse p)

/-- R336: if both profiles last `B` ticks, a strip of `n` pixels takes `24·n·B + RESET_TICKS` ticks, for every colour.
-/
def Obligations.WireTimeIsTheSameForEveryColour : Prop :=
  ∀ (p : Params) (pipe : Pipeline) (fb : Memory) (b : Block) (k bit : Nat),
    p.t0h.toNat + p.t0l.toNat = bit → p.t1h.toNat + p.t1l.toNat = bit →
    wireTime p (stripList p pipe fb b k) =
      ((24 * pixelsOf b k * bit + p.resetTicks.toNat) * p.clkDiv, p.srcClkHz)

/-- R68: `flat` and `unflat` are mutually inverse within bounds; an index from `total` on is out of range. -/
def Obligations.FlatAndUnflatAreInverse : Prop :=
  ∀ b : Block,
    (∀ k j, k < b.stripCount.toNat → j < pixelsOf b k → flat b k j < totalOf b ∧ unflat b (flat b k j) = some (k, j)) ∧
    (∀ i, i < totalOf b →
      ∃ k j, unflat b i = some (k, j) ∧ k < b.stripCount.toNat ∧ j < pixelsOf b k ∧ flat b k j = i) ∧
    (∀ i, totalOf b ≤ i → unflat b i = none)

/-! ## Registers -/

/-- R251: the value of every slot of the window; a read changes nothing but the word returned to the host. -/
def Obligations.RegReadReturnsTheRegister : Prop :=
  ∀ s : State, s.cfg.Valid →
    (∀ p ∈ ([(0x000, 0x4C454431),
        (0x004, (0 : BitVec 28) ++ BitVec.ofBool s.blk.txSeen ++ BitVec.ofBool s.blk.dirty ++
          BitVec.ofBool (decide (s.blk.phase = .transmitting)) ++ BitVec.ofBool (decide (s.blk.life = .initialized))),
        (0x008, 0),
        (0x00C, (0 : BitVec 12) ++ s.blk.resOp ++ (0 : BitVec 7) ++ BitVec.ofBool s.blk.resTx ++ (0 : BitVec 4) ++
          s.blk.resCode),
        (0x010, s.blk.duration), (0x014, s.blk.targetFps.zeroExtend 32),
        (0x018, BitVec.ofNat 32 (1000000 / s.blk.targetFps.toNat)), (0x01C, s.blk.lastTxTime),
        (0x020, s.blk.stripCount.zeroExtend 32), (0x024, s.blk.initFlags),
        (0x028, (0 : BitVec 8) ++ s.blk.encColor.r ++ s.blk.encColor.g ++ s.blk.encColor.b),
        (0x02C, (0 : BitVec 16) ++ s.cfg.resetTicks),
        (0x090, s.blk.stat.shows), (0x094, s.blk.stat.last), (0x098, s.blk.stat.min), (0x09C, s.blk.stat.max),
        (0x0A0, s.blk.stat.avg), (0x0A4, s.blk.stat.avgIv),
        (0x0A8, if s.blk.stat.avgIv = 0 then 0 else BitVec.ofNat 32 (1000000 / s.blk.stat.avgIv.toNat)),
        (0x0AC, s.blk.stat.lastStart), (0x0B0, s.blk.stat.total)] : List (BitVec 12 × Word)),
      exec (.regRead p.1) s = .next { s with env := { s.env with rdata := p.2 } }) ∧
    (∀ k, k < 24 → exec (.regRead (BitVec.ofNat 12 (0x030 + 4 * k))) s = .next { s with env := { s.env with
      rdata := if (s.blk.encColor.g ++ s.blk.encColor.r ++ s.blk.encColor.b).getLsbD (23 - k)
        then s.cfg.t1h ++ s.cfg.t1l else s.cfg.t0h ++ s.cfg.t0l } }) ∧
    (∀ k, k < s.cfg.maxStrips →
      exec (.regRead (BitVec.ofNat 12 (0x100 + 8 * k))) s =
        .next { s with env := { s.env with rdata := (s.blk.stripPixels.getD k 0).zeroExtend 32 } } ∧
      exec (.regRead (BitVec.ofNat 12 (0x104 + 8 * k))) s =
        .next { s with env := { s.env with rdata := (s.blk.stripOutput.getD k 0).zeroExtend 32 } }) ∧
    (∀ off : BitVec 12, off.toNat % 4 = 0 →
      (0x0B4 ≤ off.toNat ∧ off.toNat < 0x100 ∨ 0x100 + 8 * s.cfg.maxStrips ≤ off.toNat) →
      exec (.regRead off) s = .next { s with env := { s.env with rdata := 0 } })

/-- R252: what a write of each slot of the window does; the data bits outside a field are discarded, the layout is
locked while Initialized, a write of CMD executes the command, and every other slot ignores the write. -/
def Obligations.RegWriteWritesTheField : Prop :=
  ∀ (s : State) (v : Word), s.cfg.Valid →
    exec (.regWrite 0x008 v) s = exec (decodeCommand v).toInstr s ∧
    (v.extractLsb' 0 16 = 0 → exec (.regWrite 0x014 v) s = .next s) ∧
    (v.extractLsb' 0 16 ≠ 0 →
      exec (.regWrite 0x014 v) s = .next { s with blk := { s.blk with targetFps := v.extractLsb' 0 16 } }) ∧
    exec (.regWrite 0x028 v) s = .next { s with blk := { s.blk with
      encColor := ⟨v.extractLsb' 16 8, v.extractLsb' 8 8, v.extractLsb' 0 8⟩ } } ∧
    (s.blk.life = .uninitialized →
      exec (.regWrite 0x020 v) s = .next { s with blk := { s.blk with stripCount := v.extractLsb' 0 8 } } ∧
      exec (.regWrite 0x024 v) s = .next { s with blk := { s.blk with initFlags := v &&& 0x0000FF03 } } ∧
      ∀ k, k < s.cfg.maxStrips →
        exec (.regWrite (BitVec.ofNat 12 (0x100 + 8 * k)) v) s =
          .next { s with blk := { s.blk with stripPixels := s.blk.stripPixels.set k (v.extractLsb' 0 16) } } ∧
        exec (.regWrite (BitVec.ofNat 12 (0x104 + 8 * k)) v) s =
          .next { s with blk := { s.blk with stripOutput := s.blk.stripOutput.set k (v.extractLsb' 0 8) } }) ∧
    (s.blk.life = .initialized →
      exec (.regWrite 0x020 v) s = .next s ∧ exec (.regWrite 0x024 v) s = .next s ∧
      ∀ k, k < s.cfg.maxStrips →
        exec (.regWrite (BitVec.ofNat 12 (0x100 + 8 * k)) v) s = .next s ∧
        exec (.regWrite (BitVec.ofNat 12 (0x104 + 8 * k)) v) s = .next s) ∧
    (∀ off : BitVec 12, off.toNat % 4 = 0 →
      off.toNat ∉ [0x008, 0x014, 0x020, 0x024, 0x028] →
      (off.toNat < 0x100 ∨ 0x100 + 8 * s.cfg.maxStrips ≤ off.toNat) →
      exec (.regWrite off v) s = .next s)

/-- R250, R252: a bus operation at an offset that is no word slot faults with `BusError` of its address and size. -/
def Obligations.MisalignedOffsetIsABusError : Prop :=
  ∀ (s : State) (off : BitVec 12) (v : Word), off.toNat % 4 ≠ 0 →
    exec (.regRead off) s = .fault (.busError (s.cfg.ledcBase + off.toNat) 4) ∧
    exec (.regWrite off v) s = .fault (.busError (s.cfg.ledcBase + off.toNat) 4)

/-- The frame of a write of a register other than CMD (R252): of the block only the written register's own field may
change; lifecycle, phase, flags, `RESULT`, the attempt's bookkeeping, duration and statistics stay; so do the
parameters and the whole environment, every colour of the front buffer among it. -/
def Obligations.RegWriteFrame : Prop :=
  ∀ (off : BitVec 12) (v : Word) (s t : State), off.toNat ≠ 0x008 → exec (.regWrite off v) s = .next t →
    t.cfg = s.cfg ∧ t.env = s.env ∧ (∀ k, t.env.fb.read k = s.env.fb.read k) ∧
    t.blk = { s.blk with
      targetFps := t.blk.targetFps, encColor := t.blk.encColor, stripCount := t.blk.stripCount,
      initFlags := t.blk.initFlags, stripPixels := t.blk.stripPixels, stripOutput := t.blk.stripOutput } ∧
    (off.toNat ≠ 0x014 → t.blk.targetFps = s.blk.targetFps) ∧
    (off.toNat ≠ 0x028 → t.blk.encColor = s.blk.encColor) ∧
    (off.toNat ≠ 0x020 → t.blk.stripCount = s.blk.stripCount) ∧
    (off.toNat ≠ 0x024 → t.blk.initFlags = s.blk.initFlags) ∧
    (∀ k, off.toNat ≠ 0x100 + 8 * k → t.blk.stripPixels.getD k 0 = s.blk.stripPixels.getD k 0) ∧
    (∀ k, off.toNat ≠ 0x104 + 8 * k → t.blk.stripOutput.getD k 0 = s.blk.stripOutput.getD k 0)

/-- R97: a write of a register other than CMD is idempotent: writing the same value again changes nothing. -/
def Obligations.RegisterWritesAreIdempotent : Prop :=
  ∀ (off : BitVec 12) (v : Word) (s t : State), off.toNat ≠ 0x008 → exec (.regWrite off v) s = .next t →
    exec (.regWrite off v) t = .next t

/-! ## Answers, completion, statistics -/

/-- R206: an answer for a strip that is not pending, and any answer while Idle, changes nothing; an answer for a
pending strip takes it out of `pend` and remembers a failure, and if none is left the attempt completes in the same
step. -/
def Obligations.AnswerTakesItsStripOutOfPend : Prop :=
  ∀ (s : State) (dt k : Nat) (a : Answer) (d : Draws) (rest : List Input),
    s.env.inbox = ⟨dt, .answer k a, d⟩ :: rest →
    (s.blk.phase = .idle ∨ k ∉ s.blk.pend → step s = .next (takeInput ⟨dt, .answer k a, d⟩ rest s)) ∧
    (s.blk.phase = .transmitting → k ∈ s.blk.pend → (∃ j ∈ s.blk.pend, j ≠ k) →
      step s = .next (takeInput ⟨dt, .answer k a, d⟩ rest { s with blk := { s.blk with
        pend := s.blk.pend.filter (fun j => j != k), failSeen := s.blk.failSeen || decide (a = .fail) } })) ∧
    (s.blk.phase = .transmitting → k ∈ s.blk.pend → (∀ j ∈ s.blk.pend, j = k) →
      step s = .next (complete (takeInput ⟨dt, .answer k a, d⟩ rest { s with blk := { s.blk with
        pend := [], failSeen := s.blk.failSeen || decide (a = .fail) } })))

/-- R207, R208: the last answer of an attempt with no failure completes it: `DURATION` is the wrapping time since the
issue, the statistics take the sample, dirty is cleared, `RESULT` is OK with `TRANSMITTED` 1 and the attempt's OP. -/
def Obligations.LastAnswerCompletesASuccess : Prop :=
  ∀ (s : State) (dt k : Nat) (d : Draws) (rest : List Input),
    s.env.inbox = ⟨dt, .answer k .ok, d⟩ :: rest → s.blk.phase = .transmitting → k ∈ s.blk.pend →
    (∀ j ∈ s.blk.pend, j = k) → s.blk.failSeen = false →
    step s = .next (takeInput ⟨dt, .answer k .ok, d⟩ rest { s with blk := { s.blk with
      pend := [], phase := .idle
      duration := BitVec.ofNat 32 (s.env.now + dt) - s.blk.tStart
      stat := statsUpdate s.blk.stat (BitVec.ofNat 32 (s.env.now + dt) - s.blk.tStart) s.blk.tStart
      dirty := false, resCode := 0, resTx := true, resOp := s.blk.op } })

/-- R207, R209: the last answer of an attempt in which some strip failed writes TransmissionFailure to `RESULT`;
duration, statistics, dirty, last time and tx_seen keep their values. -/
def Obligations.LastAnswerReportsAFailure : Prop :=
  ∀ (s : State) (dt k : Nat) (a : Answer) (d : Draws) (rest : List Input),
    s.env.inbox = ⟨dt, .answer k a, d⟩ :: rest → s.blk.phase = .transmitting → k ∈ s.blk.pend →
    (∀ j ∈ s.blk.pend, j = k) → (s.blk.failSeen = true ∨ a = .fail) →
    step s = .next (takeInput ⟨dt, .answer k a, d⟩ rest { s with blk := { s.blk with
      pend := [], phase := .idle, failSeen := true, resCode := 4, resTx := false, resOp := s.blk.op } })

/-- R220, R223: the statistics after a sample, every right-hand side from before it. -/
def Obligations.StatsUpdateFollowsTheFormulas : Prop :=
  ∀ (st : Stats) (d t0 : Word),
    (statsUpdate st d t0).shows.toNat = min (st.shows.toNat + 1) (2 ^ 32 - 1) ∧
    (statsUpdate st d t0).last = d ∧
    (statsUpdate st d t0).min.toNat = min st.min.toNat d.toNat ∧
    (statsUpdate st d t0).max.toNat = max st.max.toNat d.toNat ∧
    (statsUpdate st d t0).total.toNat = min (st.total.toNat + d.toNat) (2 ^ 32 - 1) ∧
    (statsUpdate st d t0).avg = avgStep st.shows.toNat st.avg d ∧
    (statsUpdate st d t0).avgIv =
      (if st.shows.toNat = 0 then st.avgIv
       else avgStep (st.shows.toNat - 1) st.avgIv (t0 - st.lastStart)) ∧
    (statsUpdate st d t0).lastStart = t0

/-- R222: the averaging step is exact (no bit of `(7·a + x) / 8` is lost) and never exceeds the larger operand; for
the duration average `m` is the number of earlier samples. -/
def Obligations.AverageStepNeverOverflows : Prop :=
  ∀ (m : Nat) (a x : Word),
    (avgStep m a x).toNat = (if m = 0 then x.toNat else (7 * a.toNat + x.toNat) / 8) ∧
    (avgStep m a x).toNat ≤ max a.toNat x.toNat ∧
    ∀ (st : Stats) (t0 : Word), (statsUpdate st x t0).avg = avgStep st.shows.toNat st.avg x

/-- R206, R207, R291: if the next inputs are exactly one answer for every pending strip, in ANY order, the attempt
ends: the block is Idle, `RESULT` reports OK with `TRANSMITTED` 1 if every answer was ok and TransmissionFailure
otherwise, it carries the attempt's OP, and only the record of the attempt has changed. -/
def Obligations.EveryOrderOfAnswersCompletes : Prop :=
  ∀ (s : State) (answers rest : List Input) (told : List (Nat × Answer)),
    BlockInv s.cfg s.blk → s.blk.phase = .transmitting →
    s.env.inbox = answers ++ rest →
    answers.map (fun e => e.ev) = told.map (fun q => Event.answer q.1 q.2) →
    (told.map Prod.fst).Perm s.blk.pend →
    ∃ t, core.run answers.length s = .next t ∧ t.cfg = s.cfg ∧
      t.env = { s.env with
        inbox := rest, now := s.env.now + (answers.map fun e => e.dt).sum, draw := t.env.draw } ∧
      t.blk = { s.blk with
        pend := [], phase := .idle, failSeen := t.blk.failSeen, dirty := t.blk.dirty, duration := t.blk.duration,
        stat := t.blk.stat, resCode := t.blk.resCode, resTx := t.blk.resTx, resOp := s.blk.op } ∧
      (s.blk.failSeen = false → (∀ q ∈ told, q.2 = .ok) →
        t.blk.resCode = 0 ∧ t.blk.resTx = true ∧ t.blk.dirty = false ∧
        t.blk.duration = BitVec.ofNat 32 t.env.now - s.blk.tStart ∧
        t.blk.stat = statsUpdate s.blk.stat t.blk.duration s.blk.tStart) ∧
      ((s.blk.failSeen = true ∨ ∃ q ∈ told, q.2 = .fail) →
        t.blk.resCode = 4 ∧ t.blk.resTx = false ∧ t.blk.dirty = s.blk.dirty ∧
        t.blk.duration = s.blk.duration ∧ t.blk.stat = s.blk.stat)

/-- R291 with R206 to R209, R278, R326: the primitive's duty as a premise on the inputs to come. If, among inputs that hold no
reset and no unlawful access, every pending strip gets exactly one answer, in any order and with reads, writes, commands,
buffer writes and pipeline changes in between, then one of these inputs ends the attempt: in that step the block is Idle and
`RESULT` and the statistics are as the answers say. If no pending strip gets an answer, the block is still Transmitting after
all of them. -/
def Obligations.FairAnswersEndTheAttempt : Prop :=
  ∀ (s : State) (l rest : List Input),
    s.cfg.Valid → BlockInv s.cfg s.blk → s.blk.phase = .transmitting →
    s.env.inbox = l ++ rest → (∀ e ∈ l, calmInput s.cfg.ledcBase e = true) →
    (AnsweredOnce s.blk.pend l →
      ∃ n t, n ≤ l.length ∧ core.run n s = .next t ∧ t.cfg = s.cfg ∧ t.env.inbox = l.drop n ++ rest ∧
        t.env.now = s.env.now + ((l.take n).map fun e => e.dt).sum ∧
        t.blk.phase = .idle ∧ t.blk.life = .initialized ∧ t.blk.pend = [] ∧ t.blk.resOp = s.blk.op ∧
        t.blk.tStart = s.blk.tStart ∧ t.blk.lastTxTime = s.blk.lastTxTime ∧ t.blk.txSeen = s.blk.txSeen ∧
        (s.blk.failSeen = false → (∀ q ∈ answersIn l, q.2 = .ok) →
          t.blk.resCode = 0 ∧ t.blk.resTx = true ∧ t.blk.dirty = false ∧
          t.blk.duration = BitVec.ofNat 32 t.env.now - s.blk.tStart ∧
          t.blk.stat = statsUpdate s.blk.stat t.blk.duration s.blk.tStart) ∧
        ((s.blk.failSeen = true ∨ ∃ q ∈ answersIn l, q.2 = .fail) →
          t.blk.resCode = 4 ∧ t.blk.resTx = false ∧ t.blk.duration = s.blk.duration ∧ t.blk.stat = s.blk.stat)) ∧
    ((∀ q ∈ answersIn l, q.1 ∉ s.blk.pend) →
      ∃ t, core.run l.length s = .next t ∧ t.cfg = s.cfg ∧ t.env.inbox = rest ∧
        t.blk.phase = .transmitting ∧ t.blk.pend = s.blk.pend ∧ t.blk.failSeen = s.blk.failSeen ∧
        t.blk.op = s.blk.op ∧ t.blk.duration = s.blk.duration ∧ t.blk.stat = s.blk.stat)

/-- R202, R203, R208 (the §8 property, S9): two `SHOW_SYNCED` less than one interval apart, the first transmitted, its gate
open because no attempt was seen yet or because the interval had passed, and answered ok by every strip, make one
transmission: the second is skipped, and the show count rises by exactly one. -/
def Obligations.TwoSyncedShowsWithinOneIntervalTransmitOnce : Prop :=
  ∀ (s : State) (e1 e2 : Input) (answers rest : List Input) (order : List Nat),
    s.cfg.Valid → BlockInv s.cfg s.blk → s.blk.phase = .idle → s.blk.life = .initialized →
    (s.blk.txSeen = false ∨
      1000000 / s.blk.targetFps.toNat ≤ (BitVec.ofNat 32 (s.env.now + e1.dt) - s.blk.lastTxTime).toNat) →
    s.blk.stat.shows.toNat < 2 ^ 32 - 1 →
    e1.ev = .host (.write (s.cfg.ledcBase + 0x008) 4 4) → e2.ev = .host (.write (s.cfg.ledcBase + 0x008) 4 4) →
    order.Perm (List.range s.blk.stripCount.toNat) →
    answers.map (fun e => e.ev) = order.map (fun k => Event.answer k .ok) →
    s.env.inbox = e1 :: answers ++ e2 :: rest →
    (answers.map (fun e => e.dt)).sum + e2.dt < 1000000 / s.blk.targetFps.toNat →
    ∃ t, core.run (answers.length + 2) s = .next t ∧ t.env.inbox = rest ∧ t.blk.phase = .idle ∧
      t.blk.stat.shows.toNat = s.blk.stat.shows.toNat + 1 ∧
      t.blk.resCode = 0 ∧ t.blk.resTx = false ∧ t.blk.resOp = 4

/-! ## Reset -/

/-- R69, R310: hardware reset, from every state, sets every element of the tuple to its reset value in one step and emits
no request; the block right after reset has these values. -/
def Obligations.HardwareResetSetsEveryElement : Prop :=
  ∀ p : Params,
    (∀ (s : State) (dt : Nat) (d : Draws) (rest : List Input), s.cfg = p →
      s.env.inbox = ⟨dt, .reset, d⟩ :: rest →
      ∃ t, step s = .next t ∧ t.cfg = p ∧ t.blk = (State.resetWith p).blk ∧ t.env.sent = s.env.sent) ∧
    (State.resetWith p).blk =
      { life := .uninitialized, phase := .idle, dirty := false, txSeen := false, lastTxTime := 0, tStart := 0,
        pend := [], failSeen := false, op := 0, resCode := 0, resTx := false, resOp := 0, duration := 0,
        targetFps := p.defaultFps, stripCount := 0, initFlags := 0, encColor := ⟨0, 0, 0⟩,
        stripPixels := List.replicate p.maxStrips 0, stripOutput := List.replicate p.maxStrips 0,
        stat :=
          { shows := 0, last := 0, min := 0xFFFFFFFF, max := 0, avg := 0, avgIv := 0, lastStart := 0, total := 0 } }

/-! ## Decoding and stepping -/

/-- R121: the command decoder is total: words 0 to 6 are the seven commands, every other word is Illegal. -/
def Obligations.CommandDecoderIsTheTable : Prop :=
  ∀ w : Word, decodeCommand w =
    if w.toNat = 0 then .nop else if w.toNat = 1 then .init else if w.toNat = 2 then .deinit
    else if w.toNat = 3 then .showFrame else if w.toNat = 4 then .showSynced
    else if w.toNat = 5 then .markDirty else if w.toNat = 6 then .resetStats else .illegal w

/-- Words written out from the spec's encodings (30_encoding.md R120, R127, R140; opcode_table.json;
95_test_vectors.md L2) decode to the operations they stand for, in a window at 0x40000000. -/
def Obligations.SpecEncodingsDecode : Prop :=
  decodeAccess 0x40000000 (.write 0x40000008 4 0x00000003) = .instr .showFrame ∧
  decodeAccess 0x40000000 (.write 0x40000008 4 0x00000001) = .instr .init ∧
  decodeAccess 0x40000000 (.write 0x40000008 4 0x00000013) = .instr (.illegal 0x00000013) ∧
  decodeAccess 0x40000000 (.read 0x4000000C 4) = .instr (.regRead 0x00C) ∧
  decodeAccess 0x40000000 (.write 0x40000028 4 0x00FF0080) = .instr (.regWrite 0x028 0x00FF0080) ∧
  decodeAccess 0x40000000 (.read 0x40000002 4) = .busError 0x40000002 4 ∧
  decodeAccess 0x40000000 (.read 0x40000000 1) = .busError 0x40000000 1 ∧
  decodeAccess 0x40000000 (.read 0x40001000 4) = .elsewhere ∧
  decodeTableWord 32 0x00000004 = some .showSynced

/-- R120, R126, R127: for every well-formed operation that has an encoding, every operand at every value, the access
the encoder gives decodes to that operation; only the two internal operations have none. -/
def Obligations.DecodeOfEncodeIsTheInstruction : Prop :=
  ∀ (base : Nat) (i : Instr), i.wf = true →
    (∀ a, encode base i = some a → decodeAccess base a = .instr i) ∧
    (encode base i = none ↔ (∃ c, i = .encode c) ∨ i = .encodeReset)

/-- R93, R96, R121, R127: an access that decodes to an operation is the encoding of that operation, and the operation
is well formed: no access has two meanings, and no bit of one is ignored. -/
def Obligations.EncodeOfDecodeIsTheAccess : Prop :=
  ∀ (base : Nat) (a : Access) (i : Instr), decodeAccess base a = .instr i →
    i.wf = true ∧ encode base i = some a

/-- R94, R120: the four byte lanes of a command word, lowest address first, decode as the word does; any other number
of bytes is rejected. -/
def Obligations.ByteLanesAreLittleEndian : Prop :=
  (∀ w : Word, decodeBytes (lanesOf w) = some (decodeCommand w).toInstr) ∧
  (∀ l : List Byte, l.length ≠ 4 → decodeBytes l = none)

/-- R100, R180 (the inbox is the model's, log 4): when the next input is a host access that decodes to an operation,
the step is `exec` of it in the state in which the input has left the inbox, its time has passed and its draws are in
force; outside the window nothing else happens; with no input the state stays. -/
def Obligations.StepRunsTheDecodedOperation : Prop :=
  (∀ (s : State) (dt : Nat) (a : Access) (d : Draws) (rest : List Input) (i : Instr),
    s.env.inbox = ⟨dt, .host a, d⟩ :: rest → decodeAccess s.cfg.ledcBase a = .instr i →
    step s = exec i { s with env := { s.env with inbox := rest, now := s.env.now + dt, draw := d } }) ∧
  (∀ (s : State) (dt : Nat) (a : Access) (d : Draws) (rest : List Input),
    s.env.inbox = ⟨dt, .host a, d⟩ :: rest → decodeAccess s.cfg.ledcBase a = .elsewhere →
    step s = .next { s with env := { s.env with inbox := rest, now := s.env.now + dt, draw := d } }) ∧
  (∀ s : State, s.env.inbox = [] → step s = .next s)

/-- R96, R280: an access of the window that is narrower or wider than 32 bits, or not at a multiple of 4, is a bus
error with its address and size; the step takes no effect. -/
def Obligations.UnalignedOrNarrowAccessIsABusError : Prop :=
  ∀ (s : State) (dt addr size : Nat) (v : Word) (d : Draws) (rest : List Input),
    s.cfg.Valid → s.cfg.ledcBase ≤ addr → addr < s.cfg.ledcBase + 4096 → (size ≠ 4 ∨ addr % 4 ≠ 0) →
    (s.env.inbox = ⟨dt, .host (.read addr size), d⟩ :: rest → step s = .fault (.busError addr size)) ∧
    (s.env.inbox = ⟨dt, .host (.write addr size v), d⟩ :: rest → step s = .fault (.busError addr size))

/-- R280, R296: nothing is refused, and the only fault is the bus error of an unlawful host access: under the host's
duty every step goes on. -/
def Obligations.OnlyUnlawfulAccessesStop : Prop :=
  (∀ (s : State) (r : Refusal), step s ≠ .refused r) ∧
  (∀ (s : State) (f : Fault), step s = .fault f →
    ∃ dt a d rest, s.env.inbox = ⟨dt, .host a, d⟩ :: rest ∧ lawfulAccess s.cfg.ledcBase a = false) ∧
  (∀ s : State, (∀ e ∈ s.env.inbox, ∀ a, e.ev = .host a → lawfulAccess s.cfg.ledcBase a = true) →
    ∃ t, step s = .next t)

/-! ## Invariants and whole-machine rules -/

/-- R35, R46, R50, R66, R184, R200, R206, R270: every step keeps the relations between the elements of the tuple. -/
def Obligations.EveryStepKeepsTheBlockInvariant : Prop :=
  ∀ s t : State, s.cfg.Valid → BlockInv s.cfg s.blk → step s = .next t → BlockInv t.cfg t.blk

/-- R220, R222, R224 and I3 of 93_implementation_defined.md: every step keeps the bounds of the statistics record. -/
def Obligations.EveryStepKeepsTheStatisticsBounds : Prop :=
  ∀ s t : State, StatsInv s.blk.stat → step s = .next t → StatsInv t.blk.stat

/-- R134, R200, R204, R205: every step keeps the requests of the attempt in flight: one per strip, in strip order, 24
descriptors a pixel and the reset descriptor, raced pixels among them. -/
def Obligations.EveryStepKeepsTheListsInFlight : Prop :=
  ∀ s t : State, s.cfg.Valid → BlockInv s.cfg s.blk → FlightInv s → step s = .next t → FlightInv t

/-- The model's memory: every step keeps the front buffer in its canonical form (log 7). -/
def Obligations.EveryStepKeepsTheFrontBufferCanonical : Prop :=
  ∀ s t : State, s.env.fb.wf → step s = .next t → t.env.fb.wf

/-- R69: the machine right after reset has every invariant, whatever the parameters. -/
def Obligations.ResetHasTheInvariants : Prop :=
  ∀ p : Params, p.Valid →
    BlockInv p (State.resetWith p).blk ∧ StatsInv (State.resetWith p).blk.stat ∧ FlightInv (State.resetWith p) ∧
    (State.resetWith p).env.fb.wf

/-- R160: no step changes a parameter of the built block. -/
def Obligations.NoStepChangesAParameter : Prop :=
  ∀ s t : State, step s = .next t → t.cfg = s.cfg

/-- R66: the layout a block was initialized with stays as long as it is Initialized. -/
def Obligations.LayoutIsLockedWhileInitialized : Prop :=
  ∀ s t : State, step s = .next t → s.blk.life = .initialized → t.blk.life = .initialized →
    t.blk.stripCount = s.blk.stripCount ∧ t.blk.initFlags = s.blk.initFlags ∧
    t.blk.stripPixels = s.blk.stripPixels ∧ t.blk.stripOutput = s.blk.stripOutput

/-- The table 41_scheduler.md derives as its R184 from R190, R195, R200 and R207: the only transitions of (life,
phase); (Uninitialized, Transmitting) is reached by none; a step out of (Initialized, Transmitting) is an answer or a
hardware reset. -/
def Obligations.OnlyTheTableOfLifecycleTransitions : Prop :=
  ∀ s t : State, BlockInv s.cfg s.blk → step s = .next t →
    ((s.blk.life, s.blk.phase) = (t.blk.life, t.blk.phase) ∨
      ((s.blk.life, s.blk.phase), (t.blk.life, t.blk.phase)) ∈
        [((Life.uninitialized, Phase.idle), (Life.initialized, Phase.idle)),
         ((.initialized, .idle), (.initialized, .transmitting)),
         ((.initialized, .transmitting), (.initialized, .idle)),
         ((.initialized, .idle), (.uninitialized, .idle)),
         ((.initialized, .transmitting), (.uninitialized, .idle))]) ∧
    (t.blk.life, t.blk.phase) ≠ (.uninitialized, .transmitting) ∧
    (s.blk.phase = .transmitting → t.blk.phase = .idle →
      ∃ e rest, s.env.inbox = e :: rest ∧ ((∃ k a, e.ev = .answer k a ∧ k ∈ s.blk.pend) ∨ e.ev = .reset))

/-- R224: the statistics are written only by a successful completion, by `RESET_STATS` and by hardware reset. -/
def Obligations.OnlySuccessAndResetWriteTheStatistics : Prop :=
  ∀ s t : State, step s = .next t → t.blk.stat ≠ s.blk.stat →
    (t.blk.stat = Stats.reset ∧ ∃ e rest, s.env.inbox = e :: rest ∧
      (e.ev = .reset ∨ ∃ a, e.ev = .host a ∧ decodeAccess s.cfg.ledcBase a = .instr .resetStats)) ∨
    (t.blk.stat = statsUpdate s.blk.stat t.blk.duration s.blk.tStart ∧ t.blk.resTx = true ∧ t.blk.phase = .idle ∧
      ∃ e rest k, s.env.inbox = e :: rest ∧ e.ev = .answer k .ok ∧ k ∈ s.blk.pend)

/-- R36: the dirty flag is set only by `MARK_DIRTY` and a successful `INIT`, and cleared only by a successful
completion, by `DEINIT` and by hardware reset. -/
def Obligations.OnlyTheNamedEventsChangeTheDirtyFlag : Prop :=
  ∀ s t : State, step s = .next t → t.blk.dirty ≠ s.blk.dirty →
    ∃ e rest, s.env.inbox = e :: rest ∧
      ((t.blk.dirty = true ∧ ∃ a, e.ev = .host a ∧
          (decodeAccess s.cfg.ledcBase a = .instr .markDirty ∨
            decodeAccess s.cfg.ledcBase a = .instr .init ∧ t.blk.resCode = 0)) ∨
       (t.blk.dirty = false ∧
          ((∃ a, e.ev = .host a ∧ decodeAccess s.cfg.ledcBase a = .instr .deinit) ∨ e.ev = .reset ∨
            ∃ k a, e.ev = .answer k a ∧ t.blk.resCode = 0 ∧ t.blk.resTx = true)))

/-- R92, R210: no operation of the block and no step of an attempt writes the front buffer; only the buffer manager's
writes do. That `INIT` and `DEINIT`, which hand the allocation over, leave its contents to a later write is the model's
choice (log 18). -/
def Obligations.OnlyTheBufferManagerWritesTheFrontBuffer : Prop :=
  (∀ (i : Instr) (s t : State) (k : Nat), exec i s = .next t → t.env.fb.read k = s.env.fb.read k) ∧
  (∀ (s t : State) (k : Nat), step s = .next t → t.env.fb.read k ≠ s.env.fb.read k →
    ∃ e rest, s.env.inbox = e :: rest ∧ ((∃ c, e.ev = .paint k c) ∨ ∃ buf, e.ev = .swap buf))

/-- R92, R98, R101, R320: a pixel written is read back whole, and every other pixel reads as before; after a swap every
pixel reads as the new front buffer lists it, a later entry over an earlier one, and black where it lists nothing (the
model's choice, log 7); outside an attempt nothing but the buffer changes. -/
def Obligations.PixelWritesAreVisibleAndLocal : Prop :=
  (∀ (m : Memory) (i k : Nat) (c : Color), m.wf → (m.write i c).read k = if k = i then c else m.read k) ∧
  (∀ (s : State) (dt i : Nat) (c : Color) (d : Draws) (rest : List Input),
    s.blk.phase = .idle → s.env.inbox = ⟨dt, .paint i c, d⟩ :: rest →
    step s = .next { (takeInput ⟨dt, .paint i c, d⟩ rest s) with
      env := { (takeInput ⟨dt, .paint i c, d⟩ rest s).env with fb := s.env.fb.write i c } }) ∧
  (∀ (buf : List (Nat × Color)) (k : Nat),
    (Memory.ofList buf).read k = ((buf.reverse.find? fun e => e.1 == k).map Prod.snd).getD ⟨0, 0, 0⟩) ∧
  (∀ (s : State) (dt : Nat) (buf : List (Nat × Color)) (d : Draws) (rest : List Input),
    s.blk.phase = .idle → s.env.inbox = ⟨dt, .swap buf, d⟩ :: rest →
    step s = .next { (takeInput ⟨dt, .swap buf, d⟩ rest s) with
      env := { (takeInput ⟨dt, .swap buf, d⟩ rest s).env with fb := Memory.ofList buf } })

/-- R98, R102, R205, R295, R320: what a show transmits of what changes while it is in flight. A pixel painted is transmitted
as its old or its new colour, as the draw says, corrected by the settings of the issue, and every other descriptor and
request stays. A swap is such a write of every pixel: each pixel of each strip is its old or its new colour, the lists keep
their length and their last descriptor, and the earlier requests stay. A change of the pipeline touches no list and no
latched setting: only the start of an attempt latches settings, those then in force. That the draw names the indices read
anew, and that `sent` shows the list as it is transmitted, are the model's choices (log 9, log 13). -/
def Obligations.RacedPixelIsOldOrNew : Prop :=
  (∀ (s : State) (dt i k j : Nat) (c : Color) (d : Draws) (rest : List Input),
    s.cfg.Valid → BlockInv s.cfg s.blk → FlightInv s → s.env.fb.wf → s.blk.phase = .transmitting →
    unflat s.blk i = some (k, j) → s.env.inbox = ⟨dt, .paint i c, d⟩ :: rest →
    ∃ t id l, step s = .next t ∧ t.blk = s.blk ∧ t.env.fb = s.env.fb.write i c ∧
      s.env.sent[s.env.attemptAt + k]? = some (.tx k id l) ∧
      (i ∉ d.taken → t.env.sent = s.env.sent) ∧
      (i ∈ d.taken → t.env.sent = s.env.sent.set (s.env.attemptAt + k)
        (.tx k id (l.take (24 * j) ++ pulses s.cfg (correct s.env.pipeAtIssue c) ++ l.drop (24 * j + 24))))) ∧
  (∀ (s : State) (dt : Nat) (buf : List (Nat × Color)) (d : Draws) (rest : List Input),
    s.cfg.Valid → BlockInv s.cfg s.blk → FlightInv s → s.blk.phase = .transmitting →
    s.env.inbox = ⟨dt, .swap buf, d⟩ :: rest →
    ∃ t, step s = .next t ∧ t.blk = s.blk ∧ t.env.fb = Memory.ofList buf ∧
      t.env.sent.length = s.env.sent.length ∧
      t.env.sent.take s.env.attemptAt = s.env.sent.take s.env.attemptAt ∧
      ∀ k, k < s.blk.stripCount.toNat → ∃ id l l',
        s.env.sent[s.env.attemptAt + k]? = some (.tx k id l) ∧
        t.env.sent[s.env.attemptAt + k]? = some (.tx k id l') ∧ l'.length = l.length ∧
        l'[24 * pixelsOf s.blk k]? = l[24 * pixelsOf s.blk k]? ∧
        ∀ j, j < pixelsOf s.blk k → (l'.drop (24 * j)).take 24 =
          if flat s.blk k j ∈ d.taken
          then pulses s.cfg (correct s.env.pipeAtIssue ((Memory.ofList buf).read (flat s.blk k j)))
          else (l.drop (24 * j)).take 24) ∧
  (∀ (s : State) (dt : Nat) (p : Pipeline) (d : Draws) (rest : List Input),
    s.env.inbox = ⟨dt, .pipeline p, d⟩ :: rest →
    step s = .next { (takeInput ⟨dt, .pipeline p, d⟩ rest s) with
      env := { (takeInput ⟨dt, .pipeline p, d⟩ rest s).env with pipe := p } }) ∧
  (∀ s t : State, step s = .next t → t.env.pipeAtIssue ≠ s.env.pipeAtIssue →
    t.env.pipeAtIssue = s.env.pipe ∧ s.blk.phase = .idle ∧ t.blk.phase = .transmitting ∧
    ∃ e rest a, s.env.inbox = e :: rest ∧ e.ev = .host a ∧
      (decodeAccess s.cfg.ledcBase a = .instr .showFrame ∨ decodeAccess s.cfg.ledcBase a = .instr .showSynced))

/-- R17: successive time samples do not decrease in unwrapped time, and `time_us` is that time modulo 2^32. -/
def Obligations.TimeNeverRunsBackwards : Prop :=
  (∀ s t : State, step s = .next t → s.env.now ≤ t.env.now) ∧
  (∀ s : State, (timeUs s).toNat = s.env.now % 2 ^ 32)

/-- R15: with brightness 255, gamma off and unity coefficients the pipeline is the identity; with brightness 0 it
gives black. Building the properties into the model is its choice (log 8). -/
def Obligations.PipelineMeetsItsProperties : Prop :=
  ∀ (pipe : Pipeline) (c : Color),
    (pipe.brightness = 255 → pipe.gamma = false → pipe.unity = true → correct pipe c = c) ∧
    (pipe.brightness = 0 → correct pipe c = ⟨0, 0, 0⟩)
end

