-- ==== Sys2Proof/Laws/Buffer.lean ====
section
/-! SUPPORT. The front buffer keeps its canonical form under every write (log 7). -/

namespace Sys2Proof.Machine

theorem Memory.wf_nil : Memory.wf [] := by
  simp [Memory.wf]

/-- The canonical form, entry by entry: the head's index lies below the rest's, and it holds a listed colour. -/
theorem Memory.wf_cons (e : Nat × Color) (m : Memory) :
    Memory.wf (e :: m) ↔ (∀ f ∈ m, e.1 < f.1) ∧ e.2 ≠ Memory.unlisted ∧ m.wf := by
  simp only [Memory.wf, List.map_cons, List.pairwise_cons, List.mem_map, List.forall_mem_cons]
  constructor
  · rintro ⟨⟨h1, h2⟩, h3, h4⟩
    exact ⟨fun f hf => h1 _ ⟨f, hf, rfl⟩, h3, h2, h4⟩
  · rintro ⟨h1, h3, h2, h4⟩
    exact ⟨⟨by rintro _ ⟨f, hf, rfl⟩; exact h1 f hf, h2⟩, h3, h4⟩

/-- The indices a write leaves listed: those listed before, and the written one. -/
theorem Memory.mem_write {m : Memory} {i : Nat} {c : Color} {e : Nat × Color} (h : e ∈ m.write i c) :
    e = (i, c) ∨ e ∈ m := by
  induction m with
  | nil =>
    simp only [Memory.write] at h
    split at h <;> simp_all
  | cons f m ih =>
    obtain ⟨k, d⟩ := f
    simp only [Memory.write] at h
    split_ifs at h <;> simp only [List.mem_cons] at h ⊢ <;> tauto

/-- A write keeps the canonical form. -/
theorem Memory.write_wf {m : Memory} (h : m.wf) (i : Nat) (c : Color) : (m.write i c).wf := by
  induction m with
  | nil =>
    simp only [Memory.write]
    split_ifs with hc
    · exact Memory.wf_nil
    · simp [Memory.wf, hc]
  | cons f m ih =>
    obtain ⟨k, d⟩ := f
    have hm := (Memory.wf_cons (k, d) m).1 h
    simp only [Memory.write]
    split_ifs with h1 hc h2 hc
    · exact h
    · refine (Memory.wf_cons _ _).2 ⟨?_, hc, h⟩
      intro g hg
      rcases List.mem_cons.1 hg with rfl | hg
      · exact h1
      · exact lt_trans h1 (hm.1 g hg)
    · exact hm.2.2
    · subst h2
      exact (Memory.wf_cons _ _).2 ⟨hm.1, hc, hm.2.2⟩
    · refine (Memory.wf_cons _ _).2 ⟨?_, hm.2.1, ih hm.2.2⟩
      intro g hg
      rcases Memory.mem_write hg with rfl | hg
      · show k < i
        omega
      · exact hm.1 g hg

/-- Any list of contents makes a canonical front buffer. -/
theorem Memory.ofList_wf (buf : List (Nat × Color)) : (Memory.ofList buf).wf := by
  have key : ∀ m : Memory, m.wf → (buf.foldl (fun m e => m.write e.1 e.2) m).wf := by
    induction buf with
    | nil => exact fun m h => h
    | cons e buf ih => exact fun m h => ih _ (Memory.write_wf h e.1 e.2)
  exact key [] Memory.wf_nil

/-- The front buffer right after reset is canonical. -/
theorem resetWith_fb_wf (p : Params) : (State.resetWith p).env.fb.wf := Memory.wf_nil

end Sys2Proof.Machine
end

