-- ==== Sys2Proof/Laws/State.lean ====
section
/-! SUPPORT. What each update of the state does to its three parts, by rfl: the parameters, the block's tuple and the
environment. An equation of the tuple gives every one of its elements at once, so no later proof unfolds an update. -/

namespace Sys2Proof.Machine

@[simp] theorem setResult_cfg (c : BitVec 4) (x : Bool) (o : BitVec 4) (s : State) : (setResult c x o s).cfg = s.cfg := rfl
@[simp] theorem setResult_blk (c : BitVec 4) (x : Bool) (o : BitVec 4) (s : State) :
    (setResult c x o s).blk = { s.blk with resCode := c, resTx := x, resOp := o } := rfl
@[simp] theorem setResult_env (c : BitVec 4) (x : Bool) (o : BitVec 4) (s : State) :
    (setResult c x o s).env = s.env := rfl

@[simp] theorem reject_cfg (c o : BitVec 4) (s : State) : (reject c o s).cfg = s.cfg := rfl
@[simp] theorem reject_blk (c o : BitVec 4) (s : State) :
    (reject c o s).blk = { s.blk with resCode := c, resTx := false, resOp := o } := rfl
@[simp] theorem reject_env (c o : BitVec 4) (s : State) :
    (reject c o s).env = s.env := rfl

@[simp] theorem emit_cfg (r : Request) (s : State) : (emit r s).cfg = s.cfg := rfl
@[simp] theorem emit_blk (r : Request) (s : State) :
    (emit r s).blk = s.blk := rfl
@[simp] theorem emit_env (r : Request) (s : State) :
    (emit r s).env = { s.env with sent := s.env.sent ++ [r] } := rfl

@[simp] theorem issue_cfg (o : BitVec 4) (t : Word) (s : State) : (issue o t s).cfg = s.cfg := rfl
@[simp] theorem issue_blk (o : BitVec 4) (t : Word) (s : State) :
    (issue o t s).blk = { s.blk with
      tStart := t, lastTxTime := t, txSeen := true, op := o, failSeen := false,
      pend := List.range s.blk.stripCount.toNat, phase := .transmitting } := rfl
@[simp] theorem issue_env (o : BitVec 4) (t : Word) (s : State) :
    (issue o t s).env = { s.env with
      sent := s.env.sent ++ txRequests s, attemptAt := s.env.sent.length, pipeAtIssue := s.env.pipe } := rfl

@[simp] theorem toIdle_cfg (s : State) : (toIdle s).cfg = s.cfg := rfl
@[simp] theorem toIdle_blk (s : State) :
    (toIdle s).blk = { s.blk with phase := .idle } := rfl
@[simp] theorem toIdle_env (s : State) :
    (toIdle s).env = s.env := rfl

@[simp] theorem successShow_cfg (d : Word) (s : State) : (successShow d s).cfg = s.cfg := rfl
@[simp] theorem successShow_blk (d : Word) (s : State) :
    (successShow d s).blk = { s.blk with
      duration := d, stat := statsUpdate s.blk.stat d s.blk.tStart, dirty := false,
      resCode := 0, resTx := true, resOp := s.blk.op } := rfl
@[simp] theorem successShow_env (d : Word) (s : State) :
    (successShow d s).env = s.env := rfl

@[simp] theorem failureShow_cfg (s : State) : (failureShow s).cfg = s.cfg := rfl
@[simp] theorem failureShow_blk (s : State) :
    (failureShow s).blk = { s.blk with resCode := 4, resTx := false, resOp := s.blk.op } := rfl
@[simp] theorem failureShow_env (s : State) :
    (failureShow s).env = s.env := rfl

@[simp] theorem noteAnswer_cfg (k : Nat) (a : Answer) (s : State) : (noteAnswer k a s).cfg = s.cfg := rfl
@[simp] theorem noteAnswer_blk (k : Nat) (a : Answer) (s : State) :
    (noteAnswer k a s).blk = { s.blk with
      pend := s.blk.pend.filter (· != k), failSeen := s.blk.failSeen || a == .fail } := rfl
@[simp] theorem noteAnswer_env (k : Nat) (a : Answer) (s : State) :
    (noteAnswer k a s).env = s.env := rfl

@[simp] theorem hardwareReset_cfg (s : State) : (hardwareReset s).cfg = s.cfg := rfl
@[simp] theorem hardwareReset_blk (s : State) :
    (hardwareReset s).blk = Block.reset s.cfg := rfl
@[simp] theorem hardwareReset_env (s : State) :
    (hardwareReset s).env = s.env := rfl

@[simp] theorem takeInput_cfg (e : Input) (rest : List Input) (s : State) : (takeInput e rest s).cfg = s.cfg := rfl
@[simp] theorem takeInput_blk (e : Input) (rest : List Input) (s : State) :
    (takeInput e rest s).blk = s.blk := rfl
@[simp] theorem takeInput_env (e : Input) (rest : List Input) (s : State) :
    (takeInput e rest s).env = { s.env with inbox := rest, now := s.env.now + e.dt, draw := e.draw } := rfl

@[simp] theorem returnData_cfg (v : Word) (s : State) : (returnData v s).cfg = s.cfg := rfl
@[simp] theorem returnData_blk (v : Word) (s : State) :
    (returnData v s).blk = s.blk := rfl
@[simp] theorem returnData_env (v : Word) (s : State) :
    (returnData v s).env = { s.env with rdata := v } := rfl

@[simp] theorem returnDescs_cfg (l : List Desc) (s : State) : (returnDescs l s).cfg = s.cfg := rfl
@[simp] theorem returnDescs_blk (l : List Desc) (s : State) :
    (returnDescs l s).blk = s.blk := rfl
@[simp] theorem returnDescs_env (l : List Desc) (s : State) :
    (returnDescs l s).env = { s.env with descs := l } := rfl

@[simp] theorem setFront_cfg (m : Memory) (s : State) : (setFront m s).cfg = s.cfg := rfl
@[simp] theorem setFront_blk (m : Memory) (s : State) :
    (setFront m s).blk = s.blk := rfl
@[simp] theorem setFront_env (m : Memory) (s : State) :
    (setFront m s).env = { s.env with fb := m } := rfl

@[simp] theorem setPipeline_cfg (p : Pipeline) (s : State) : (setPipeline p s).cfg = s.cfg := rfl
@[simp] theorem setPipeline_blk (p : Pipeline) (s : State) :
    (setPipeline p s).blk = s.blk := rfl
@[simp] theorem setPipeline_env (p : Pipeline) (s : State) :
    (setPipeline p s).env = { s.env with pipe := p } := rfl

@[simp] theorem pushInput_cfg (e : Input) (s : State) : (pushInput e s).cfg = s.cfg := rfl
@[simp] theorem pushInput_blk (e : Input) (s : State) :
    (pushInput e s).blk = s.blk := rfl
@[simp] theorem pushInput_env (e : Input) (s : State) :
    (pushInput e s).env = { s.env with inbox := e :: s.env.inbox } := rfl

@[simp] theorem writeEncColor_cfg (v : Word) (s : State) : (writeEncColor v s).cfg = s.cfg := rfl
@[simp] theorem writeEncColor_blk (v : Word) (s : State) :
    (writeEncColor v s).blk = { s.blk with encColor := fieldColor v } := rfl
@[simp] theorem writeEncColor_env (v : Word) (s : State) :
    (writeEncColor v s).env = s.env := rfl

@[simp] theorem markDirtyBody_cfg (s : State) : (markDirtyBody s).cfg = s.cfg := rfl
@[simp] theorem markDirtyBody_blk (s : State) :
    (markDirtyBody s).blk = { s.blk with dirty := true } := rfl
@[simp] theorem markDirtyBody_env (s : State) :
    (markDirtyBody s).env = s.env := rfl

@[simp] theorem resetStatsBody_cfg (s : State) : (resetStatsBody s).cfg = s.cfg := rfl
@[simp] theorem resetStatsBody_blk (s : State) :
    (resetStatsBody s).blk = { s.blk with stat := Stats.reset, resCode := 0, resTx := false, resOp := 6 } := rfl
@[simp] theorem resetStatsBody_env (s : State) :
    (resetStatsBody s).env = s.env := rfl

@[simp] theorem timeUs_toNat (s : State) : (timeUs s).toNat = s.env.now % 4294967296 := by
  simp [timeUs]

@[simp] theorem resetWith_cfg (p : Params) : (State.resetWith p).cfg = p := rfl
@[simp] theorem resetWith_blk (p : Params) : (State.resetWith p).blk = Block.reset p := rfl
@[simp] theorem resetWith_env (p : Params) : (State.resetWith p).env = Env.reset := rfl

end Sys2Proof.Machine
end

