-- ==== Sys2Proof/Laws/Ops.lean ====
section
/-! SUPPORT. For each shared operation, one lemma that says once everything it can do; later proofs cite it instead of
unfolding the operation. -/

namespace Sys2Proof.Machine

/-- Every answer of `accept`, and when (R275). -/
theorem accept_cases (op : BitVec 4) (b : Block) :
    (accept op b = 6 ∧ b.phase = .transmitting ∧ op ≠ Opcode.nop ∧ op ≠ Opcode.markDirty) ∨
    (accept op b = 5 ∧ b.life = .uninitialized ∧
      (op = Opcode.showFrame ∨ op = Opcode.showSynced ∨ op = Opcode.markDirty)) ∨
    (accept op b = 0 ∧ (b.phase = .transmitting → op = Opcode.nop ∨ op = Opcode.markDirty) ∧
      (op = Opcode.showFrame ∨ op = Opcode.showSynced ∨ op = Opcode.markDirty → b.life = .initialized)) := by
  unfold accept
  split_ifs with h1 h2
  · exact .inl ⟨rfl, h1⟩
  · exact .inr (.inl ⟨rfl, h2⟩)
  · refine .inr (.inr ⟨rfl, fun hp => ?_, fun ho => ?_⟩)
    · by_contra hc
      exact h1 ⟨hp, not_or.1 hc⟩
    · cases hl : b.life
      · exact absurd ⟨hl, ho⟩ h2
      · rfl

/-- An attempt in flight rejects every command but two (R278). -/
theorem accept_busy {op : BitVec 4} {b : Block} (h : b.phase = .transmitting) (h1 : op ≠ Opcode.nop)
    (h2 : op ≠ Opcode.markDirty) : accept op b = 6 := by
  unfold accept
  exact if_pos ⟨h, h1, h2⟩

/-- Three commands are rejected before `INIT` (R277). -/
theorem accept_notInitialized {op : BitVec 4} {b : Block} (h : b.phase = .idle ∨ op = Opcode.markDirty)
    (hl : b.life = .uninitialized)
    (h1 : op = Opcode.showFrame ∨ op = Opcode.showSynced ∨ op = Opcode.markDirty) : accept op b = 5 := by
  unfold accept
  rw [if_neg, if_pos ⟨hl, h1⟩]
  · rfl
  · rintro ⟨h2, -, h4⟩
    rcases h with h | h
    · simp [h] at h2
    · exact h4 h

/-- An idle block accepts the rest (R275). -/
theorem accept_idle {op : BitVec 4} {b : Block} (h : b.phase = .idle)
    (h1 : b.life = .initialized ∨ ¬ (op = Opcode.showFrame ∨ op = Opcode.showSynced ∨ op = Opcode.markDirty)) :
    accept op b = 0 := by
  unfold accept
  rw [if_neg, if_neg]
  · rfl
  · rintro ⟨h2, h3⟩
    rcases h1 with h1 | h1
    · simp [h1] at h2
    · exact h1 h3
  · simp [h]

/-- A command is rejected, and then nothing but `RESULT` changes, or its body runs (R180, R271). -/
theorem runCommand_cases (op : BitVec 4) (body : State → State) (s : State) :
    (accept op s.blk ≠ 0 ∧ runCommand op body s = reject (accept op s.blk) op s) ∨
    (accept op s.blk = 0 ∧ runCommand op body s = body s) := by
  unfold runCommand
  split_ifs with h
  · exact .inr ⟨h, rfl⟩
  · exact .inl ⟨h, rfl⟩

/-- An accepted command runs its body. -/
theorem runCommand_of_accept {op : BitVec 4} {s : State} (h : accept op s.blk = 0) (body : State → State) :
    runCommand op body s = body s := by
  unfold runCommand
  exact if_pos h

/-- A rejected command writes `RESULT`. -/
theorem runCommand_of_reject {op : BitVec 4} {s : State} (h : accept op s.blk ≠ 0) (body : State → State) :
    runCommand op body s = reject (accept op s.blk) op s := by
  unfold runCommand
  exact if_neg h

/-- Every outcome of the body of `INIT` (R190 to R194), with the request list and the block it leaves. -/
theorem initBody_cases (s : State) :
    ((s.blk.life = .initialized ∨ layoutOk s.cfg s.blk = false) ∧ initBody s = reject 1 1 s) ∨
    (s.blk.life = .uninitialized ∧ layoutOk s.cfg s.blk = true ∧
      ((s.env.draw.alloc = .fail ∧ initBody s = reject 2 1 (emit (allocReq s.blk) s)) ∨
       (s.env.draw.alloc = .ok ∧ s.env.draw.config = .fail ∧
          initBody s = reject 3 1 (emit .release (emit (.config (outputIds s.blk)) (emit (allocReq s.blk) s)))) ∨
       (s.env.draw.alloc = .ok ∧ s.env.draw.config = .ok ∧
          initBody s = successInit (emit (.config (outputIds s.blk)) (emit (allocReq s.blk) s))))) := by
  unfold initBody
  split_ifs with h1 h2
  · exact .inl ⟨.inl h1, rfl⟩
  · exact .inl ⟨.inr (by simpa using h2), rfl⟩
  · refine .inr ⟨by cases hl : s.blk.life <;> simp_all, by simpa using h2, ?_⟩
    unfold initAllocate
    cases ha : s.env.draw.alloc with
    | fail => exact .inl ⟨rfl, rfl⟩
    | ok =>
      unfold initConfigure
      cases hc : s.env.draw.config with
      | fail => exact .inr (.inl ⟨rfl, rfl, by simp only [emit_env, hc]; rfl⟩)
      | ok => exact .inr (.inr ⟨rfl, rfl, by simp only [emit_env, emit_blk, hc]⟩)

/-- Both outcomes of the body of `DEINIT` (R195, R196). -/
theorem deinitBody_cases (s : State) :
    (s.blk.life = .uninitialized ∧ deinitBody s = setResult 0 false 2 s) ∨
    (s.blk.life = .initialized ∧ deinitBody s = setResult 0 false 2
      (emit .release { s with blk := { s.blk with life := .uninitialized, dirty := false, txSeen := false } })) := by
  unfold deinitBody
  split_ifs with h
  · exact .inl ⟨h, rfl⟩
  · exact .inr ⟨by cases hl : s.blk.life <;> simp_all, rfl⟩

/-- Both outcomes of the body of `SHOW_SYNCED` (R203). -/
theorem showSyncedBody_cases (s : State) :
    (gateOpen s.blk (timeUs s) = true ∧ showSyncedBody s = issue 4 (timeUs s) s) ∨
    (gateOpen s.blk (timeUs s) = false ∧ showSyncedBody s = setResult 0 false 4 s) := by
  unfold showSyncedBody
  split_ifs with h
  · exact .inl ⟨h, rfl⟩
  · exact .inr ⟨by simpa using h, rfl⟩

/-- Every outcome of an answer (R206): ignored, noted, or noted and completing the attempt in success or failure. -/
theorem answer_cases (k : Nat) (a : Answer) (s : State) :
    ((s.blk.phase = .idle ∨ k ∉ s.blk.pend) ∧ answer k a s = s) ∨
    (s.blk.phase = .transmitting ∧ k ∈ s.blk.pend ∧
      (((noteAnswer k a s).blk.pend ≠ [] ∧ answer k a s = noteAnswer k a s) ∨
       ((noteAnswer k a s).blk.pend = [] ∧ (noteAnswer k a s).blk.failSeen = true ∧
          answer k a s = toIdle (failureShow (noteAnswer k a s))) ∨
       ((noteAnswer k a s).blk.pend = [] ∧ (noteAnswer k a s).blk.failSeen = false ∧
          answer k a s =
            toIdle (successShow (timeUs (noteAnswer k a s) - s.blk.tStart) (noteAnswer k a s))))) := by
  unfold answer
  split_ifs with h1 h2
  · refine .inr ⟨h1.1, h1.2, ?_⟩
    unfold complete
    cases hf : (noteAnswer k a s).blk.failSeen with
    | true => exact .inr (.inl ⟨h2, rfl, by simp⟩)
    | false => exact .inr (.inr ⟨h2, rfl, by simp⟩)
  · exact .inr ⟨h1.1, h1.2, .inl ⟨h2, rfl⟩⟩
  · refine .inl ⟨?_, rfl⟩
    cases hp : s.blk.phase with
    | idle => exact .inl rfl
    | transmitting => exact .inr fun hk => h1 ⟨hp, hk⟩

/-- A raced read changes nothing but the requests of the attempt (R205). -/
theorem repaint_frame (i : Nat) (s : State) :
    (repaint i s).cfg = s.cfg ∧ (repaint i s).blk = s.blk ∧
    (repaint i s).env = { s.env with sent := (repaint i s).env.sent } := by
  unfold repaint
  split <;> exact ⟨rfl, rfl, rfl⟩

theorem repaint_fold_frame (l : List Nat) (s : State) :
    (l.foldl (fun t i => repaint i t) s).cfg = s.cfg ∧ (l.foldl (fun t i => repaint i t) s).blk = s.blk ∧
    (l.foldl (fun t i => repaint i t) s).env =
      { s.env with sent := (l.foldl (fun t i => repaint i t) s).env.sent } := by
  induction l generalizing s with
  | nil => exact ⟨rfl, rfl, rfl⟩
  | cons i l ih =>
    have h := repaint_frame i s
    have h' := ih (repaint i s)
    simp only [List.foldl_cons]
    refine ⟨h'.1.trans h.1, h'.2.1.trans h.2.1, ?_⟩
    rw [h'.2.2, h.2.2]

/-- A race changes nothing but the requests of an attempt in flight; outside one it changes nothing at all (R102). -/
theorem race_frame (w : Nat → Bool) (s : State) :
    (race w s).cfg = s.cfg ∧ (race w s).blk = s.blk ∧
    (race w s).env = { s.env with sent := (race w s).env.sent } ∧
    (s.blk.phase = .idle → race w s = s) := by
  unfold race
  split_ifs with h
  · have h' := repaint_fold_frame (s.env.draw.taken.filter w) s
    exact ⟨h'.1, h'.2.1, h'.2.2, fun hi => by simp [hi] at h⟩
  · exact ⟨rfl, rfl, rfl, fun _ => rfl⟩

/-- A write of a layout register is ignored or writes the block, by the lifecycle state (R66). -/
theorem writeLayout_cases (f : Block → Block) (s : State) :
    (s.blk.life = .initialized ∧ writeLayout f s = s) ∨
    (s.blk.life = .uninitialized ∧ writeLayout f s = { s with blk := f s.blk }) := by
  unfold writeLayout
  split_ifs with h
  · exact .inl ⟨h, rfl⟩
  · exact .inr ⟨by cases hl : s.blk.life <;> simp_all, rfl⟩

/-- Every outcome of a write of a register other than CMD (R252): ignored, or one field written. -/
theorem writeReg_cases (r : Reg) (v : Word) (s : State) :
    writeReg r v s = s ∨
    (r = .targetFps ∧ field16 v ≠ 0 ∧ writeReg r v s = { s with blk := { s.blk with targetFps := field16 v } }) ∨
    (r = .encColor ∧ writeReg r v s = { s with blk := { s.blk with encColor := fieldColor v } }) ∨
    (s.blk.life = .uninitialized ∧
      ((r = .stripCount ∧ writeReg r v s = { s with blk := { s.blk with stripCount := field8 v } }) ∨
       (r = .initFlags ∧ writeReg r v s = { s with blk := { s.blk with initFlags := fieldFlags v } }) ∨
       (∃ k, r = .stripPixels k ∧
          writeReg r v s = { s with blk := { s.blk with stripPixels := s.blk.stripPixels.set k (field16 v) } }) ∨
       (∃ k, r = .stripOutput k ∧
          writeReg r v s = { s with blk := { s.blk with stripOutput := s.blk.stripOutput.set k (field8 v) } }))) := by
  cases r with
  | targetFps =>
    by_cases h : field16 v ≠ 0
    · exact .inr (.inl ⟨rfl, h, if_pos h⟩)
    · exact .inl (if_neg h)
  | encColor => exact .inr (.inr (.inl ⟨rfl, rfl⟩))
  | stripCount =>
    rcases writeLayout_cases (fun b => { b with stripCount := field8 v }) s with ⟨_, h⟩ | ⟨hl, h⟩
    · exact .inl h
    · exact .inr (.inr (.inr ⟨hl, .inl ⟨rfl, h⟩⟩))
  | initFlags =>
    rcases writeLayout_cases (fun b => { b with initFlags := fieldFlags v }) s with ⟨_, h⟩ | ⟨hl, h⟩
    · exact .inl h
    · exact .inr (.inr (.inr ⟨hl, .inr (.inl ⟨rfl, h⟩)⟩))
  | stripPixels k =>
    rcases writeLayout_cases (fun b => { b with stripPixels := b.stripPixels.set k (field16 v) }) s with ⟨_, h⟩ | ⟨hl, h⟩
    · exact .inl h
    · exact .inr (.inr (.inr ⟨hl, .inr (.inr (.inl ⟨k, rfl, h⟩))⟩))
  | stripOutput k =>
    rcases writeLayout_cases (fun b => { b with stripOutput := b.stripOutput.set k (field8 v) }) s with ⟨_, h⟩ | ⟨hl, h⟩
    · exact .inl h
    · exact .inr (.inr (.inr ⟨hl, .inr (.inr (.inr ⟨k, rfl, h⟩))⟩))
  | _ => exact .inl rfl

/-- A decoded command run as such and run by `exec` is the same operation (R180). -/
theorem exec_toInstr (c : Command) (s : State) : exec c.toInstr s = execCommand c s := by
  cases c <;> rfl

/-- Every outcome of `REG_WRITE` (R252): a bus error, the command, or a write of another register. -/
theorem execRegWrite_cases (off : BitVec 12) (v : Word) (s : State) :
    (wordSlot off = false ∧ execRegWrite off v s = .fault (.busError (s.cfg.ledcBase + off.toNat) 4)) ∨
    (off.toNat = 8 ∧ execRegWrite off v s = exec (decodeCommand v).toInstr s) ∨
    (wordSlot off = true ∧ off.toNat ≠ 8 ∧
      execRegWrite off v s = .next (writeReg (regOf s.cfg.maxStrips off.toNat) v s)) := by
  unfold execRegWrite
  split_ifs with h1 h2
  · exact .inl ⟨by simpa using h1, rfl⟩
  · exact .inr (.inl ⟨h2, (exec_toInstr _ _).symm⟩)
  · exact .inr (.inr ⟨by simpa using h1, h2, rfl⟩)

end Sys2Proof.Machine
end

