-- ==== Sys2Proof/Laws/Step.lean ====
section
/-! SUPPORT. A step by the input it takes, a run by its steps, and what a register write can do (20_memory.md R97,
42_register_access.md R252). -/

namespace Sys2Proof.Machine

/-- The step with an input is what the input does, once it has left the inbox. -/
theorem step_cons {s : State} {e : Input} {rest : List Input} (h : s.env.inbox = e :: rest) :
    step s = runEvent e.ev (takeInput e rest s) := by
  unfold step
  rw [h]

theorem step_nil {s : State} (h : s.env.inbox = []) : step s = .next s := by
  unfold step
  rw [h]

/-- Every step that goes on: it had no input, or one that did this. -/
theorem step_cases {s t : State} (h : step s = .next t) :
    (s.env.inbox = [] ∧ t = s) ∨
    ∃ e rest, s.env.inbox = e :: rest ∧ runEvent e.ev (takeInput e rest s) = .next t := by
  cases hi : s.env.inbox with
  | nil =>
    rw [step_nil hi] at h
    cases h
    exact .inl ⟨rfl, rfl⟩
  | cons e rest => exact .inr ⟨e, rest, rfl, by rw [← step_cons hi]; exact h⟩

/-- A host access that goes on: the operation it decodes to ran, or it lay outside the window. -/
theorem hostAccess_cases {a : Access} {s t : State} (h : hostAccess a s = .next t) :
    (∃ i, decodeAccess s.cfg.ledcBase a = .instr i ∧ exec i s = .next t) ∨
    (decodeAccess s.cfg.ledcBase a = .elsewhere ∧ t = s) := by
  unfold hostAccess at h
  cases hd : decodeAccess s.cfg.ledcBase a with
  | instr i => exact .inl ⟨i, rfl, by rw [hd] at h; exact h⟩
  | busError addr size => rw [hd] at h; cases h
  | elsewhere => rw [hd] at h; cases h; exact .inr ⟨rfl, rfl⟩

/-- A run of one step more, of any machine. -/
theorem run_succ_of (M : Host.Core) (n : Nat) {s t : M.State} (h : M.step s = .next t) :
    M.run (n + 1) s = M.run n t := by
  rw [Host.Core.run, h]

/-- A run of one step more. -/
theorem run_succ (n : Nat) {s t : State} (h : step s = .next t) : core.run (n + 1) s = core.run n t :=
  run_succ_of core n h

/-- A write of a register other than CMD that goes on wrote that register. -/
theorem regWrite_next {off : BitVec 12} {v : Word} {s t : State} (h8 : off.toNat ≠ 8)
    (h : exec (.regWrite off v) s = .next t) :
    wordSlot off = true ∧ t = writeReg (regOf s.cfg.maxStrips off.toNat) v s := by
  change execRegWrite off v s = _ at h
  rcases execRegWrite_cases off v s with ⟨_, h'⟩ | ⟨h', _⟩ | ⟨h1, _, h'⟩
  · rw [h'] at h; cases h
  · exact absurd h' h8
  · rw [h'] at h; cases h; exact ⟨h1, rfl⟩

/-- A write of a word slot other than CMD goes on. -/
theorem regWrite_slot {off : BitVec 12} (v : Word) (s : State) (h : wordSlot off = true) (h8 : off.toNat ≠ 8) :
    exec (.regWrite off v) s = .next (writeReg (regOf s.cfg.maxStrips off.toNat) v s) := by
  change execRegWrite off v s = _
  rcases execRegWrite_cases off v s with ⟨h1, _⟩ | ⟨h1, _⟩ | ⟨_, _, h1⟩
  · rw [h] at h1; cases h1
  · exact absurd h1 h8
  · exact h1

/-- A read that goes on returned the register. -/
theorem regRead_next {off : BitVec 12} {s t : State} (h : exec (.regRead off) s = .next t) :
    wordSlot off = true ∧ t = returnData (readValue s off) s := by
  change execRegRead off s = _ at h
  unfold execRegRead at h
  split_ifs at h with h1
  · cases h
    exact ⟨h1, rfl⟩
  · cases h

end Sys2Proof.Machine
end

