-- ==== Sys2Proof/Laws/Exec.lean ====
section
/-! SUPPORT. Everything an operation can do, said once: the next states of `exec`, each with the operation that reaches it
and the conditions on the state it left (41_scheduler.md, 42_register_access.md, 40_encoder.md). -/

namespace Sys2Proof.Machine

/-- `i` carries command `c`: it is the command, or a write of CMD with its word (R180, R252). -/
def Carries (i : Instr) (c : Command) : Prop :=
  i = c.toInstr ∨ ∃ off v, i = .regWrite off v ∧ off.toNat = 8 ∧ decodeCommand v = c

/-- The block after a write of one layout register of an Uninitialized block (R66, R252). -/
def LayoutWritten (b b' : Block) : Prop :=
  (∃ n, b' = { b with stripCount := n }) ∨ (∃ v, b' = { b with initFlags := fieldFlags v }) ∨
  (∃ k n, b' = { b with stripPixels := b.stripPixels.set k n }) ∨
  ∃ k n, b' = { b with stripOutput := b.stripOutput.set k n }

/-- Every next state of a command. -/
theorem execCommand_next {c : Command} {s t : State} (h : execCommand c s = .next t) :
    (∃ code op, code.toNat ≤ 7 ∧ t = setResult code false op s) ∨
    (c = .init ∧ s.blk.phase = .idle ∧ s.blk.life = .uninitialized ∧ layoutOk s.cfg s.blk = true ∧
      (t = reject 2 1 (emit (allocReq s.blk) s) ∨
       t = reject 3 1 (emit .release (emit (.config (outputIds s.blk)) (emit (allocReq s.blk) s))) ∨
       t = successInit (emit (.config (outputIds s.blk)) (emit (allocReq s.blk) s)))) ∨
    (c = .deinit ∧ s.blk.phase = .idle ∧ s.blk.life = .initialized ∧
      t = setResult 0 false 2 (emit .release { s with blk := { s.blk with
        life := .uninitialized, dirty := false, txSeen := false } })) ∨
    (∃ op, (c = .showFrame ∧ op = 3 ∨ c = .showSynced ∧ op = 4) ∧ s.blk.phase = .idle ∧
      s.blk.life = .initialized ∧ t = issue op (timeUs s) s) ∨
    (c = .markDirty ∧ s.blk.life = .initialized ∧ t = markDirtyBody s) ∨
    (c = .resetStats ∧ s.blk.phase = .idle ∧ t = resetStatsBody s) := by
  have key : ∀ op body, execCommand c s = .next (runCommand op body s) →
      (∃ code o, code.toNat ≤ 7 ∧ t = setResult code false o s) ∨
      (t = body s ∧ (s.blk.phase = .transmitting → op = Opcode.nop ∨ op = Opcode.markDirty) ∧
        (op = Opcode.showFrame ∨ op = Opcode.showSynced ∨ op = Opcode.markDirty → s.blk.life = .initialized)) := by
    intro op body he
    rw [he] at h
    cases h
    rcases runCommand_cases op body s with ⟨h1, h2⟩ | ⟨h1, h2⟩
    · refine .inl ⟨accept op s.blk, op, ?_, h2⟩
      rcases accept_cases op s.blk with h | h | h <;> rw [h.1] <;> decide
    · refine .inr ⟨h2, ?_⟩
      rcases accept_cases op s.blk with h | h | h
      · rw [h1] at h; simp at h
      · rw [h1] at h; simp at h
      · exact h.2
  have idle : (s.blk.phase = .transmitting → False) → s.blk.phase = .idle := by
    cases s.blk.phase <;> simp
  cases c with
  | nop =>
    rcases key _ _ rfl with h | h
    · exact .inl h
    · exact .inl ⟨0, 0, by decide, h.1⟩
  | init =>
    rcases key _ _ rfl with h | ⟨h, hb, -⟩
    · exact .inl h
    · have hp := idle fun hp => absurd (hb hp) (by decide)
      rcases initBody_cases s with ⟨_, h'⟩ | ⟨hl, hk, h'⟩
      · exact .inl ⟨1, 1, by decide, h.trans h'⟩
      · refine .inr (.inl ⟨rfl, hp, hl, hk, ?_⟩)
        rcases h' with ⟨_, h'⟩ | ⟨_, _, h'⟩ | ⟨_, _, h'⟩
        · exact .inl (h.trans h')
        · exact .inr (.inl (h.trans h'))
        · exact .inr (.inr (h.trans h'))
  | deinit =>
    rcases key _ _ rfl with h | ⟨h, hb, -⟩
    · exact .inl h
    · have hp := idle fun hp => absurd (hb hp) (by decide)
      rcases deinitBody_cases s with ⟨_, h'⟩ | ⟨hl, h'⟩
      · exact .inl ⟨0, 2, by decide, h.trans h'⟩
      · exact .inr (.inr (.inl ⟨rfl, hp, hl, h.trans h'⟩))
  | showFrame =>
    rcases key _ _ rfl with h | ⟨h, hb, hl⟩
    · exact .inl h
    · have hp := idle fun hp => absurd (hb hp) (by decide)
      exact .inr (.inr (.inr (.inl ⟨3, .inl ⟨rfl, rfl⟩, hp, hl (by decide), h⟩)))
  | showSynced =>
    rcases key _ _ rfl with h | ⟨h, hb, hl⟩
    · exact .inl h
    · have hp := idle fun hp => absurd (hb hp) (by decide)
      rcases showSyncedBody_cases s with ⟨_, h'⟩ | ⟨_, h'⟩
      · exact .inr (.inr (.inr (.inl ⟨4, .inr ⟨rfl, rfl⟩, hp, hl (by decide), h.trans h'⟩)))
      · exact .inl ⟨0, 4, by decide, h.trans h'⟩
  | markDirty =>
    rcases key _ _ rfl with h | ⟨h, -, hl⟩
    · exact .inl h
    · exact .inr (.inr (.inr (.inr (.inl ⟨rfl, hl (by decide), h⟩))))
  | resetStats =>
    rcases key _ _ rfl with h | ⟨h, hb, -⟩
    · exact .inl h
    · have hp := idle fun hp => absurd (hb hp) (by decide)
      exact .inr (.inr (.inr (.inr (.inr ⟨rfl, hp, h⟩))))
  | illegal w =>
    cases h
    exact .inl ⟨7, _, by decide, rfl⟩

/-- Every next state of an operation: a command's, a read's, an encoding's, or a register write's. -/
theorem exec_next {i : Instr} {s t : State} (h : exec i s = .next t) :
    (∃ c, Carries i c ∧ execCommand c s = .next t) ∨
    (∃ off, i = .regRead off ∧ wordSlot off = true ∧ t = returnData (readValue s off) s) ∨
    (∃ l, t = returnDescs l s) ∨
    (∃ off v, i = .regWrite off v ∧ wordSlot off = true ∧ off.toNat ≠ 8 ∧
      (t = s ∨ (∃ f : BitVec 16, f ≠ 0 ∧ t = { s with blk := { s.blk with targetFps := f } }) ∨
       (∃ k, t = { s with blk := { s.blk with encColor := k } }) ∨
       (s.blk.life = .uninitialized ∧ ∃ b, LayoutWritten s.blk b ∧ t = { s with blk := b }))) := by
  cases i with
  | nop => exact .inl ⟨.nop, .inl rfl, h⟩
  | init => exact .inl ⟨.init, .inl rfl, h⟩
  | deinit => exact .inl ⟨.deinit, .inl rfl, h⟩
  | showFrame => exact .inl ⟨.showFrame, .inl rfl, h⟩
  | showSynced => exact .inl ⟨.showSynced, .inl rfl, h⟩
  | markDirty => exact .inl ⟨.markDirty, .inl rfl, h⟩
  | resetStats => exact .inl ⟨.resetStats, .inl rfl, h⟩
  | illegal w => exact .inl ⟨.illegal w, .inl rfl, h⟩
  | regRead off =>
    obtain ⟨h1, h2⟩ := regRead_next h
    exact .inr (.inl ⟨off, rfl, h1, h2⟩)
  | regWrite off v =>
    by_cases h8 : off.toNat = 8
    · refine .inl ⟨decodeCommand v, .inr ⟨off, v, rfl, h8, rfl⟩, ?_⟩
      change execRegWrite off v s = _ at h
      rcases execRegWrite_cases off v s with ⟨_, h'⟩ | ⟨_, h'⟩ | ⟨_, h', _⟩
      · rw [h'] at h; cases h
      · rw [← exec_toInstr, ← h']; exact h
      · exact absurd h8 h'
    · obtain ⟨h1, h2⟩ := regWrite_next h8 h
      refine .inr (.inr (.inr ⟨off, v, rfl, h1, h8, ?_⟩))
      rcases writeReg_cases (regOf s.cfg.maxStrips off.toNat) v s with h | ⟨_, h0, h⟩ | ⟨_, h⟩ | ⟨hl, h⟩
      · exact .inl (h2.trans h)
      · exact .inr (.inl ⟨_, h0, h2.trans h⟩)
      · exact .inr (.inr (.inl ⟨_, h2.trans h⟩))
      · refine .inr (.inr (.inr ⟨hl, ?_⟩))
        rcases h with ⟨_, h⟩ | ⟨_, h⟩ | ⟨k, _, h⟩ | ⟨k, _, h⟩
        · exact ⟨_, .inl ⟨_, rfl⟩, h2.trans h⟩
        · exact ⟨_, .inr (.inl ⟨_, rfl⟩), h2.trans h⟩
        · exact ⟨_, .inr (.inr (.inl ⟨_, _, rfl⟩)), h2.trans h⟩
        · exact ⟨_, .inr (.inr (.inr ⟨_, _, rfl⟩)), h2.trans h⟩
  | encode c => cases h; exact .inr (.inr (.inl ⟨_, rfl⟩))
  | encodeReset => cases h; exact .inr (.inr (.inl ⟨_, rfl⟩))

end Sys2Proof.Machine
end

