-- ==== Sys2Proof/Laws/Flags.lean ====
section
/-! SUPPORT. The numbers behind the saturating and extremal words and the interval (00_scope.md R19, 10_state.md R47). -/

namespace Sys2Proof.Machine

theorem sat32_toNat (x : Nat) : (sat32 x).toNat = min x (2 ^ 32 - 1) := by
  unfold sat32
  rw [BitVec.toNat_ofNat, Nat.mod_eq_of_lt (Nat.lt_of_le_of_lt (Nat.min_le_right x 0xFFFFFFFF) (by decide))]
  rfl

theorem umin_toNat (a b : Word) : (umin a b).toNat = min a.toNat b.toNat := by
  unfold umin
  split_ifs <;> omega

theorem umax_toNat (a b : Word) : (umax a b).toNat = max a.toNat b.toNat := by
  unfold umax
  split_ifs <;> omega

theorem intervalUs_toNat (fps : BitVec 16) : (intervalUs fps).toNat = 1000000 / fps.toNat := by
  unfold intervalUs
  rw [BitVec.toNat_ofNat, Nat.mod_eq_of_lt (Nat.lt_of_le_of_lt (Nat.div_le_self _ _) (by decide))]

theorem gateOpen_iff (b : Block) (t : Word) :
    gateOpen b t = true ↔ b.txSeen = false ∨ 1000000 / b.targetFps.toNat ≤ (t - b.lastTxTime).toNat := by
  simp [gateOpen, intervalUs_toNat]

end Sys2Proof.Machine
end

