-- ==== Sys2Proof/Laws/Operands.lean ====
section
/-! SUPPORT. The register an offset names, in both directions (10_state.md R40, R65), and the meanings of the bus
operations at a named register. -/

namespace Sys2Proof.Machine

theorem wordSlot_iff (off : BitVec 12) : wordSlot off = true ↔ off.toNat % 4 = 0 := by
  simp [wordSlot]

/-- The low part of the map: a slot is reserved or holds the register whose offset it is. -/
theorem lowRegs_offset : ∀ k, k < 64 →
    lowRegs.getD k .reserved = .reserved ∨ (lowRegs.getD k .reserved).offset = 4 * k := by
  decide

/-- Everything `regOf` can answer: a reserved slot, or the register whose offset was asked for. -/
theorem regOf_cases (m o : Nat) (h4 : o % 4 = 0) :
    regOf m o = .reserved ∨ (regOf m o).offset = o := by
  unfold regOf
  split_ifs with h1 h2 h3
  · have h := lowRegs_offset (o / 4) (by omega)
    rwa [show 4 * (o / 4) = o by omega] at h
  · exact .inr (by simp only [Reg.offset]; omega)
  · exact .inr (by simp only [Reg.offset]; omega)
  · exact .inl rfl

theorem regOf_encPulse (m k : Nat) (hk : k < 24) : regOf m (0x030 + 4 * k) = .encPulse k := by
  have key : ∀ k, k < 24 → lowRegs.getD (12 + k) .reserved = .encPulse k := by decide
  unfold regOf
  rw [if_pos (by omega), show (0x030 + 4 * k) / 4 = 12 + k by omega]
  exact key k hk

theorem regOf_stripPixels (m k : Nat) (hk : k < m) (hm : m ≤ 16) : regOf m (0x100 + 8 * k) = .stripPixels k := by
  unfold regOf
  rw [if_neg (by omega), if_pos (by omega), if_pos (by omega)]
  congr 1
  omega

theorem regOf_stripOutput (m k : Nat) (hk : k < m) (hm : m ≤ 16) : regOf m (0x104 + 8 * k) = .stripOutput k := by
  unfold regOf
  rw [if_neg (by omega), if_pos (by omega), if_neg (by omega)]
  congr 1
  omega

/-- The slots R65 names are reserved. -/
theorem regOf_reserved (m o : Nat) (h4 : o % 4 = 0) (h : 0x0B4 ≤ o ∧ o < 0x100 ∨ 0x100 + 8 * m ≤ o) :
    regOf m o = .reserved := by
  have key : ∀ k, k < 64 → 45 ≤ k → lowRegs.getD k .reserved = .reserved := by decide
  unfold regOf
  split_ifs with h1 h2 h3
  · exact key _ (by omega) (by omega)
  · omega
  · omega
  · rfl

/-- A read of a word slot answers and returns the register's value (R250). -/
theorem execRegRead_slot {off : BitVec 12} (h4 : off.toNat % 4 = 0) (s : State) :
    execRegRead off s = .next (returnData (readValue s off) s) :=
  if_pos ((wordSlot_iff off).2 h4)

/-- A read at an offset that is no word slot is a bus error (R250). -/
theorem execRegRead_misaligned {off : BitVec 12} (h4 : off.toNat % 4 ≠ 0) (s : State) :
    execRegRead off s = misaligned off s :=
  if_neg fun h => h4 ((wordSlot_iff off).1 h)

end Sys2Proof.Machine
end

