-- ==== Sys2Proof/Laws/PerInstr.lean ====
section
/-! SUPPORT. Per-instruction laws. -/

namespace Sys2Proof.Laws.LawfulEncoding

/-- The access an operation is encoded as is one aligned 32-bit word of the window (R126). -/
def Statement (i : Instr) : Prop :=
  ∀ (base : Nat) (a : Access), i.wf = true → encode base i = some a →
    ∃ addr, inWindow base addr = true ∧ wordAccess base addr 4 = true ∧
      (a = .read addr 4 ∨ ∃ v, a = .write addr 4 v)

/-- An address of the window, from its offset. -/
theorem window_of_offset (base : Nat) (off : BitVec 12) (h : wordSlot off = true) :
    inWindow base (base + off.toNat) = true ∧ wordAccess base (base + off.toNat) 4 = true := by
  have hlt := off.isLt
  constructor
  · simp only [inWindow, Bool.and_eq_true, decide_eq_true_eq]
    omega
  · simpa [wordAccess, offsetOf] using h

/-- A write of CMD is such an access. -/
theorem cmdWrite_lawful (base : Nat) (w : Word) (a : Access) (h : some (cmdWrite base w) = some a) :
    ∃ addr, inWindow base addr = true ∧ wordAccess base addr 4 = true ∧
      (a = .read addr 4 ∨ ∃ v, a = .write addr 4 v) := by
  obtain rfl := Option.some.inj h
  have hw := window_of_offset base 0x008 (by decide)
  exact ⟨base + 8, hw.1, hw.2, .inr ⟨w, rfl⟩⟩

theorem nop : Statement .nop := fun base a _ h => cmdWrite_lawful base _ a h
theorem init : Statement .init := fun base a _ h => cmdWrite_lawful base _ a h
theorem deinit : Statement .deinit := fun base a _ h => cmdWrite_lawful base _ a h
theorem showFrame : Statement .showFrame := fun base a _ h => cmdWrite_lawful base _ a h
theorem showSynced : Statement .showSynced := fun base a _ h => cmdWrite_lawful base _ a h
theorem markDirty : Statement .markDirty := fun base a _ h => cmdWrite_lawful base _ a h
theorem resetStats : Statement .resetStats := fun base a _ h => cmdWrite_lawful base _ a h
theorem illegal (w : Word) : Statement (.illegal w) := fun base a _ h => cmdWrite_lawful base w a h

theorem regRead (off : BitVec 12) : Statement (.regRead off) := by
  intro base a hw h
  obtain rfl := Option.some.inj h
  have hb := window_of_offset base off hw
  exact ⟨_, hb.1, hb.2, .inl rfl⟩

theorem regWrite (off : BitVec 12) (v : Word) : Statement (.regWrite off v) := by
  intro base a hw h
  obtain rfl := Option.some.inj h
  have hb := window_of_offset base off (by simp only [Instr.wf, Bool.and_eq_true] at hw; exact hw.1)
  exact ⟨_, hb.1, hb.2, .inr ⟨v, rfl⟩⟩

theorem encode (c : Color) : Statement (.encode c) := fun _ _ _ h => nomatch h
theorem encodeReset : Statement .encodeReset := fun _ _ _ h => nomatch h

end Sys2Proof.Laws.LawfulEncoding
end

