-- ==== Sys2Proof/Laws/Pulse.lean ====
section
/-! SUPPORT. The halves of a concatenation, the elements of ENCODE's list, and the list of several pixels grown by one
(30_encoding.md R130, 40_encoder.md R150, 41_scheduler.md R204). -/

namespace Sys2Proof.Machine

theorem append_low {n m : Nat} (a : BitVec n) (b : BitVec m) : (a ++ b).extractLsb' 0 m = b := by
  apply BitVec.eq_of_getLsbD_eq
  intro i hi
  simp [BitVec.getLsbD_append, hi]

theorem append_high {n m : Nat} (a : BitVec n) (b : BitVec m) : (a ++ b).extractLsb' m n = a := by
  apply BitVec.eq_of_getLsbD_eq
  intro i hi
  simp [BitVec.getLsbD_append, hi]

theorem append_inj {n m : Nat} {a c : BitVec n} {b d : BitVec m} (h : a ++ b = c ++ d) : a = c ∧ b = d := by
  constructor
  · have := congrArg (BitVec.extractLsb' m n) h
    rwa [append_high, append_high] at this
  · have := congrArg (BitVec.extractLsb' 0 m) h
    rwa [append_low, append_low] at this

@[simp] theorem highTicks_append (a b : BitVec 16) : highTicks (a ++ b) = a.toNat := by
  unfold highTicks
  rw [append_high]

@[simp] theorem lowTicks_append (a b : BitVec 16) : lowTicks (a ++ b) = b.toNat := by
  unfold lowTicks
  rw [append_low]

@[simp] theorem pulses_length (p : Params) (c : Color) : (pulses p c).length = 24 := by simp [pulses]

theorem pulses_getElem? (p : Params) (c : Color) (k : Nat) (hk : k < 24) :
    (pulses p c)[k]? = some (sel p ((wireWord c).getLsbD (23 - k))) := by
  simp [pulses, hk]

/-- The wire word keeps every channel. -/
theorem wireWord_inj {c d : Color} (h : wireWord c = wireWord d) : c = d := by
  obtain ⟨h1, h2⟩ := append_inj h
  obtain ⟨h3, h4⟩ := append_inj h1
  cases c
  cases d
  simp_all

theorem pixelPulses_succ (p : Params) (pipe : Pipeline) (fb : Memory) (i n : Nat) :
    pixelPulses p pipe fb i (n + 1) = pixelPulses p pipe fb i n ++ pulses p (correct pipe (fb.read (i + n))) := by
  simp [pixelPulses, List.range_succ]

@[simp] theorem pixelPulses_length (p : Params) (pipe : Pipeline) (fb : Memory) (i n : Nat) :
    (pixelPulses p pipe fb i n).length = 24 * n := by
  induction n with
  | zero => simp [pixelPulses]
  | succ n ih => simp [pixelPulses_succ, ih, Nat.mul_succ]

theorem wireTicks_append (a b : List Desc) : wireTicks (a ++ b) = wireTicks a + wireTicks b := by simp [wireTicks]

/-- Another colour in place of one pixel's leaves the length. -/
theorem recolor_length (p : Params) (l : List Desc) (j : Nat) (c : Color) (h : 24 * j + 24 ≤ l.length) :
    (recolor p l j c).length = l.length := by
  simp [recolor]
  omega

end Sys2Proof.Machine
end

