-- ==== Sys2Proof/Tests/Slice0.lean ====
section
/-! SUPPORT. Tests: terms the well-formedness check refuses, words of the spec's encodings, one-step tests whose expected
values are the vectors of 95_test_vectors.md, and for every statement with hypotheses a state and operands that meet
them. -/

namespace Sys2Proof.Tests

open Sys2Proof Sys2Proof.Machine Sys2Proof.Safety

/-! ## Helpers -/

/-- What a next state shows; nothing where the machine stops. -/
def view {α : Type} (f : State → α) : Host.Outcome State Fault Refusal → Option α
  | .next t => some (f t)
  | .fault _ => none
  | .refused _ => none

/-- The fault of an outcome. -/
def stop : Host.Outcome State Fault Refusal → Option Fault
  | .next _ => none
  | .fault f => some f
  | .refused _ => none

/-- The RESULT word after an operation. -/
def resultOf (o : Host.Outcome State Fault Refusal) : Option Word := view (fun t => resultWord t.blk) o

/-- The STATUS word after an operation. -/
def statusOf (o : Host.Outcome State Fault Refusal) : Option Word := view (fun t => statusWord t.blk) o

/-- The word a read returns. -/
def dataOf (o : Host.Outcome State Fault Refusal) : Option Word := view (fun t => t.env.rdata) o

def noDraws : Draws := ⟨.ok, .ok, []⟩

def host (a : Access) : Input := ⟨0, .host a, noDraws⟩

def told (k : Nat) (a : Answer) : Input := ⟨5, .answer k a, noDraws⟩

def withInbox (l : List Input) (s : State) : State := { s with env := { s.env with inbox := l } }

def withDraws (d : Draws) (s : State) : State := { s with env := { s.env with draw := d } }

def at_ (now : Nat) (s : State) : State := { s with env := { s.env with now := now } }

/-- A layout of these pixel counts, the outputs all 7, in a block that is not initialized. -/
def laidOut (n : BitVec 8) (pixels : List (BitVec 16)) : State :=
  { State.reset with blk := { State.reset.blk with
      stripCount := n, stripPixels := pixels, stripOutput := List.replicate 8 7, initFlags := 0xFF03 } }

/-- Two strips of one pixel, not initialized. -/
def fresh : State := laidOut 2 [1, 1, 0, 0, 0, 0, 0, 0]

/-- The same, initialized and idle. -/
def ready : State := { fresh with blk := { fresh.blk with life := .initialized, dirty := true } }

/-- A show of both strips in flight, issued at time 1000. -/
def busy : State := showBody (at_ 1000 ready)

/-- The last strip's answer outstanding. -/
def lastOne : State := { busy with blk := { busy.blk with pend := [1] } }

/-- An idle block that has tried to transmit at `t0` with target rate `fps`, at time `now`. -/
def gateState (t0 : Word) (fps : BitVec 16) (now : Nat) : State :=
  at_ now { ready with blk := { ready.blk with txSeen := true, lastTxTime := t0, targetFps := fps } }

def cmd (w : Word) : Access := .write 0x008 4 w

/-! ## Well-formedness -/

theorem test_wf_legal_word_is_not_illegal : (Instr.illegal 0x00000003).wf = false := by decide
theorem test_wf_read_off_slot : (Instr.regRead 0x002).wf = false := by decide
theorem test_wf_write_off_slot : (Instr.regWrite 0x021 0).wf = false := by decide
theorem test_wf_write_of_cmd : (Instr.regWrite 0x008 3).wf = false := by decide
theorem test_wf_accepts :
    [Instr.illegal 0x13, .regRead 0x008, .regWrite 0xFFC 1, .encode ⟨1, 2, 3⟩, .encodeReset].all Instr.wf = true := by
  decide

/-! ## Words written out from the encodings (30_encoding.md R120 to R122, R127; 95_test_vectors.md L2, L3) -/

theorem test_decode_commands :
    [0x00000000#32, 0x00000001, 0x00000002, 0x00000003, 0x00000004, 0x00000005, 0x00000006].map decodeCommand =
      [.nop, .init, .deinit, .showFrame, .showSynced, .markDirty, .resetStats] := by decide

theorem test_decode_illegal :
    [0x00000007#32, 0x0000000F, 0x00000010, 0x00000013, 0x80000003, 0xFFFFFFFF].all
      (fun w => decodeCommand w == .illegal w) = true := by decide

theorem test_decode_table_words :
    [0, 1, 2, 3, 4, 5, 6, 7].map (decodeTableWord 32) =
      [some .nop, some .init, some .deinit, some .showFrame, some .showSynced, some .markDirty, some .resetStats,
        some (.illegal 7)] := by decide

theorem test_decode_table_word_bits : decodeTableWord 32 0x80000003 = some (.illegal 0x80000003) := by decide

theorem test_decode_short_row : decodeTableWord 8 0x03 = some .showFrame := by decide

theorem test_decode_bytes : decodeBytes [0x13, 0x00, 0x00, 0x80] = some (.illegal 0x80000013) := by decide

/-- P1's bus encoding: `W 0x024 0x0000FF03`, `R 0x00C`. -/
theorem test_decode_bus :
    decodeAccess 0x1000 (.write 0x1024 4 0x0000FF03) = .instr (.regWrite 0x024 0x0000FF03) ∧
    decodeAccess 0x1000 (.read 0x100C 4) = .instr (.regRead 0x00C) := by decide

theorem test_decode_edges :
    decodeAccess 0x1000 (.read 0x1FFC 4) = .instr (.regRead 0xFFC) ∧ decodeAccess 0x1000 (.read 0x2000 4) = .elsewhere ∧
    decodeAccess 0x1000 (.read 0x0FFC 4) = .elsewhere ∧ decodeAccess 0x1000 (.read 0x1FFC 8) = .busError 0x1FFC 8 := by
  decide

/-- P1's layout line. -/
theorem test_asm_layout :
    asmLayout 0 [(200, 0), (200, 1), (200, 2), (200, 3)] =
      [.write 0x020 4 0x4, .write 0x100 4 0xC8, .write 0x104 4 0x0, .write 0x108 4 0xC8, .write 0x10C 4 0x1,
        .write 0x110 4 0xC8, .write 0x114 4 0x2, .write 0x118 4 0xC8, .write 0x11C 4 0x3] := by decide

theorem test_asm_show_wait :
    asmShowWait 0 1 = [.write 0x008 4 0x3, .read 0x004 4, .read 0x00C 4] ∧ pollDone 0x9 0x2 0x0 = true ∧
    pollDone 0xB 0x2 0x0 = false := by decide

/-- The fetched word runs as the first operation. -/
theorem test_fetch_runs :
    resultOf (step (State.reset.withFetchWord 32 3)) = some 0x00030005 ∧
    resultOf (step (State.reset.withFetchWord 32 0x13)) = some 0x00030007 ∧
    resultOf (step (State.reset.withFetchWord 32 6)) = some 0x00060000 := by decide

/-! ## Commands: the acceptance matrix, V-I, V-G -/

theorem test_nop : [State.reset, ready, busy].map (fun s => resultOf (exec .nop s)) = [some 0, some 0, some 0] := by
  decide

theorem test_illegal :
    [State.reset, ready, busy].map (fun s => resultOf (exec (.illegal 0x13) s)) =
      [some 0x00030007, some 0x00030007, some 0x00030007] := by decide

/-- V-I6's shape, on two pixels: the requests in order, and STATUS 0x5. -/
theorem test_init :
    statusOf (exec .init fresh) = some 0x5 ∧ resultOf (exec .init fresh) = some 0x00010000 ∧
    view (fun t => t.env.sent) (exec .init fresh) =
      some [.alloc 2 true true, .config [7, 7], .brightnessCap 255] := by decide

/-- V-I1 to V-I5 and V-I10. -/
theorem test_init_rejects :
    [laidOut 0 (List.replicate 8 1), laidOut 9 (List.replicate 8 1), laidOut 255 (List.replicate 8 1),
      laidOut 1 (List.replicate 8 0), laidOut 1 (List.replicate 8 4097), ready].map (fun s => resultOf (exec .init s)) =
      List.replicate 6 (some 0x00010001) := by decide

/-- V-I8 and V-I9. -/
theorem test_init_failures :
    resultOf (exec .init (withDraws ⟨.fail, .ok, []⟩ fresh)) = some 0x00010002 ∧
    resultOf (exec .init (withDraws ⟨.ok, .fail, []⟩ fresh)) = some 0x00010003 ∧
    view (fun t => t.env.sent) (exec .init (withDraws ⟨.ok, .fail, []⟩ fresh)) =
      some [.alloc 2 true true, .config [7, 7], .release] := by decide

theorem test_layout_of_4096 :
    layoutOk Params.p0 (laidOut 8 (List.replicate 8 512)).blk = true ∧
    layoutOk Params.p0 (laidOut 2 [0, 5, 0, 0, 0, 0, 0, 0]).blk = true := by decide

theorem test_deinit :
    [State.reset, ready, busy].map (fun s => resultOf (exec .deinit s)) =
      [some 0x00020000, some 0x00020000, some 0x00020006] := by decide

theorem test_deinit_releases :
    view (fun t => t.env.sent) (exec .deinit ready) = some [.release] ∧ statusOf (exec .deinit ready) = some 0 ∧
    view (fun t => t.env.sent) (exec .deinit State.reset) = some [] := by decide

theorem test_show :
    resultOf (exec .showFrame State.reset) = some 0x00030005 ∧ resultOf (exec .showFrame busy) = some 0x00030006 ∧
    statusOf (exec .showFrame ready) = some 0xF ∧ resultOf (exec .showFrame ready) = some 0 := by decide

/-- V-E8: pixel 0 red under the P1 settings. -/
theorem test_show_list :
    view (fun t => t.env.sent) (exec .showFrame { ready with env := { ready.env with fb := [(0, ⟨0xFF, 0, 0⟩)] } }) =
      some [
        .tx 0 7 (List.replicate 8 0x00100022 ++ List.replicate 8 0x00200012 ++ List.replicate 8 0x00100022 ++
          [0x000007D0]),
        .tx 1 7 (List.replicate 24 0x00100022 ++ [0x000007D0])] := by decide

/-- V-G1 to V-G9. -/
theorem test_gate :
    (gateOpen ready.blk 0) = true ∧
    [gateState 1000 60 17665, gateState 1000 60 17666, gateState 0xFFFFFF00 60 0x10000401A,
      gateState 0xFFFFFF00 60 0x100004019, gateState 500 65535 515, gateState 500 65535 514, gateState 0 1 999999,
      gateState 0 60 (2 ^ 32 + 100)].map (fun s => gateOpen s.blk (timeUs s)) =
      [false, true, true, false, true, false, false, false] := by decide

theorem test_show_synced :
    resultOf (exec .showSynced State.reset) = some 0x00040005 ∧ resultOf (exec .showSynced busy) = some 0x00040006 ∧
    resultOf (exec .showSynced (gateState 1000 60 17665)) = some 0x00040000 ∧
    statusOf (exec .showSynced (gateState 1000 60 17666)) = some 0xF := by decide

theorem test_mark_dirty :
    resultOf (exec .markDirty State.reset) = some 0x00050005 ∧
    statusOf (exec .markDirty { busy with blk := { busy.blk with dirty := false } }) = some 0xF ∧
    resultOf (exec .markDirty { busy with blk := { busy.blk with resOp := 3, resTx := true } }) = some 0x00030100 := by
  decide

theorem test_reset_stats :
    resultOf (exec .resetStats busy) = some 0x00060006 ∧
    view (fun t => t.blk.stat == Stats.reset)
      (exec .resetStats { ready with blk := { ready.blk with stat := statsUpdate Stats.reset 5 6 } }) = some true := by
  decide

/-! ## Registers: V-R, the intervals, the encoder view -/

theorem test_read_reset :
    [0x000#12, 0x004, 0x00C, 0x014, 0x018, 0x098, 0x008, 0x0B4, 0xFFC, 0x140].map
      (fun o => dataOf (exec (.regRead o) State.reset)) =
      [some 0x4C454431, some 0, some 0, some 0x3C, some 0x411A, some 0xFFFFFFFF, some 0, some 0, some 0, some 0] := by
  decide

/-- P4's reads of the encoder, and V-R16. -/
theorem test_read_encoder :
    [0x04C#12, 0x050, 0x070, 0x074, 0x02C].map
      (fun o => dataOf (exec (.regRead o) { ready with blk := { ready.blk with encColor := ⟨0xFF, 0x00, 0x80⟩ } })) =
      [some 0x00100022, some 0x00200012, some 0x00200012, some 0x00100022, some 0x000007D0] ∧
    dataOf (exec (.regRead 0x004) busy) = some 0xF := by decide

theorem test_intervals :
    [1#16, 3, 24, 30, 50, 60, 1000, 65535].map intervalUs = [1000000, 333333, 41666, 33333, 20000, 16666, 1000, 15] := by
  decide

/-- The writes of TARGET_FPS, V-R10 to V-R13, V-R15. -/
theorem test_write_fields :
    view (fun t => t.blk.targetFps) (exec (.regWrite 0x014 0x0001001E) State.reset) = some 30 ∧
    view (fun t => t.blk.targetFps) (exec (.regWrite 0x014 0x00010000) State.reset) = some 60 ∧
    view (fun t => t.blk.initFlags) (exec (.regWrite 0x024 0xFFFFFFFF) State.reset) = some 0x0000FF03 ∧
    view (fun t => t.blk.stripCount) (exec (.regWrite 0x020 0x000001FF) State.reset) = some 0xFF := by decide

theorem test_write_lock :
    view (fun t => t.blk.stripPixels.getD 0 0) (exec (.regWrite 0x100 0x00012345) State.reset) = some 0x2345 ∧
    view (fun t => t.blk.stripCount) (exec (.regWrite 0x020 3) ready) = some 2 ∧
    view (fun t => colorWord t.blk.encColor) (exec (.regWrite 0x028 0xAB123456) busy) = some 0x00123456 ∧
    resultOf (exec (.regWrite 0x00C 0x1234) busy) = some 0 := by decide

/-- V-R8 and V-R9. -/
theorem test_bus_error :
    stop (step (withInbox [host (.read 0x002 4)] busy)) = some (.busError 0x002 4) ∧
    stop (step (withInbox [host (.read 0x000 1)] busy)) = some (.busError 0x000 1) := by decide

/-! ## Encoder: V-E -/

/-- V-E6a. -/
theorem test_encode :
    view (fun t => t.env.descs) (exec (.encode ⟨0x12, 0x34, 0x56⟩) State.reset) =
      some (([0, 0, 1, 1, 0, 1, 0, 0, 0, 0, 0, 1, 0, 0, 1, 0, 0, 1, 0, 1, 0, 1, 1, 0] : List Nat).map
        fun b => if b = 1 then 0x00200012 else 0x00100022) := by decide

/-- V-E5 and V-E6b. -/
theorem test_encode_order :
    pulses Params.p0 ⟨0x00, 0xFF, 0x00⟩ = List.replicate 8 0x00200012 ++ List.replicate 16 0x00100022 ∧
    pulses Params.p0 ⟨0x01, 0x00, 0x00⟩ =
      List.replicate 15 0x00100022 ++ [0x00200012] ++ List.replicate 8 0x00100022 := by decide

/-- V-E7. -/
theorem test_encode_reset : view (fun t => t.env.descs) (exec .encodeReset busy) = some [0x000007D0] := by decide

/-- R14: the ticks of `P0` from 0.4, 0.85, 0.8, 0.45 and 50 microseconds, rounded half up. -/
theorem test_ticks_of_p0 :
    [400, 850, 800, 450, 50000].map (ticksOfNs Params.p0) = [16, 34, 32, 18, 2000] := by decide

/-- The wire time of one pixel is 80 microseconds. -/
theorem test_wire_time :
    wireTime Params.p0 (stripList Params.p0 Pipeline.p1 [] ready.blk 0) = (3200 * 2, 80000000) ∧
    6400 * 1000000 = 80 * 80000000 := by decide

/-- S6. -/
theorem test_unflat :
    [0, 180, 799, 800].map (unflat (laidOut 4 [180, 220, 180, 220, 0, 0, 0, 0]).blk) =
      [some (0, 0), some (1, 0), some (3, 219), none] := by decide

/-! ## Answers, statistics, reset -/

/-- P5: the failure leaves DIRTY set; the success clears it. -/
theorem test_answers :
    (statusOf (step (withInbox [told 1 .fail] lastOne)) = some 0xD ∧
      resultOf (step (withInbox [told 1 .fail] lastOne)) = some 0x00030004) ∧
    statusOf (step (withInbox [told 1 .ok] lastOne)) = some 0x9 ∧
    resultOf (step (withInbox [told 1 .ok] lastOne)) = some 0x00030100 := by decide

theorem test_duration :
    view (fun t => (t.blk.duration, t.blk.stat.lastStart)) (step (withInbox [told 1 .ok] (at_ 7045 lastOne))) =
      some (6050, 1000) := by decide

theorem test_duplicate_answer : statusOf (step (withInbox [told 0 .ok] lastOne)) = some 0xF := by decide

theorem test_avg_step :
    [avgStep 0 77 6100, avgStep 1 6050 6058, avgStep 1 6050 6000, avgStep 3 100 0,
      avgStep 5 0xFFFFFFFF 0xFFFFFFFF] = [6100, 6051, 6043, 87, 0xFFFFFFFF] := by decide

/-- V-S1, and its fourth success. -/
theorem test_stats_sequence :
    (statsUpdate (statsUpdate (statsUpdate Stats.reset 6050 1000) 6058 17666) 6000 34332) =
      ⟨3, 6000, 6000, 6058, 6044, 16666, 34332, 18108⟩ ∧
    avgStep 2 16666 (60000 - 34332) = 17791 ∧
    [0#32, 1, 15, 16666, 16667, 1000000, 17791].map fpsOf = [0, 1000000, 66666, 60, 59, 1, 56] := by decide

theorem test_stats_saturate :
    (statsUpdate { Stats.reset with shows := 0xFFFFFFFF, total := 0xFFFFFF00 } 6050 0).shows = 0xFFFFFFFF ∧
    (statsUpdate { Stats.reset with shows := 0xFFFFFFFF, total := 0xFFFFFF00 } 6050 0).total = 0xFFFFFFFF := by decide

/-- Reset during a show, and an answer after it. -/
theorem test_hardware_reset :
    statusOf (step (withInbox [⟨0, .reset, noDraws⟩] busy)) = some 0 ∧
    view (fun t => t.blk == Block.reset Params.p0) (step (withInbox [told 1 .ok] (hardwareReset busy))) = some true := by
  decide

/-- R205: a raced pixel is sent old or new. -/
theorem test_race :
    view (fun t => t.env.sent[1]?) (step (withInbox [⟨0, .paint 1 ⟨0, 0xFF, 0⟩, ⟨.ok, .ok, [1]⟩⟩] busy)) =
      some (some (.tx 1 7 (List.replicate 8 0x00200012 ++ List.replicate 16 0x00100022 ++ [0x000007D0]))) ∧
    view (fun t => t.env.sent[1]?) (step (withInbox [⟨0, .paint 1 ⟨0, 0xFF, 0⟩, noDraws⟩] busy)) =
      some (some (.tx 1 7 (List.replicate 24 0x00100022 ++ [0x000007D0]))) := by decide

/-- R320: a swap in flight races in every pixel; strip 1 is sent new, strip 0 old. -/
theorem test_swap_race :
    view (fun t => t.env.sent) (step (withInbox [⟨0, .swap [(0, ⟨0xFF, 0, 0⟩), (1, ⟨0, 0xFF, 0⟩)], ⟨.ok, .ok, [1]⟩⟩] busy)) =
      some [.tx 0 7 (List.replicate 24 0x00100022 ++ [0x000007D0]),
        .tx 1 7 (List.replicate 8 0x00200012 ++ List.replicate 16 0x00100022 ++ [0x000007D0])] := by decide

/-- R206, R311: after a reset the abandoned attempt's answer is ignored; once a new attempt waits for the same strip, an answer
for it is the new attempt's (the model's choice, log 19). -/
theorem test_late_answer :
    view (fun t => t.blk == Block.reset Params.p0) (step (withInbox [told 0 .ok] (hardwareReset busy))) = some true ∧
    view (fun t => t.blk.pend)
      (step (withInbox [told 0 .ok] (showBody { hardwareReset busy with blk := ready.blk }))) = some [1] := by decide

/-- The byte lanes of V-R1. -/
theorem test_lanes : lanesOf 0x4C454431 = [0x31, 0x44, 0x45, 0x4C] := by decide

/-! ## Witnesses: a state and operands that meet the hypotheses of each statement, one per clause -/

/-- A state with this code standing in `RESULT`. -/
def coded (c : BitVec 4) (s : State) : State := { s with blk := { s.blk with resCode := c } }

theorem p0_valid : Params.p0.Valid := by decide

/-- The largest parameters of R9. -/
def p16 : Params := { Params.p0 with maxStrips := 16 }

theorem p16_valid : p16.Valid := by decide

theorem ready_inv : BlockInv ready.cfg ready.blk :=
  ⟨by decide, by decide, by decide, by decide, by decide, by decide, by decide, by decide, by decide, by decide,
    by decide, by decide⟩

theorem busy_inv : BlockInv busy.cfg busy.blk :=
  ⟨by decide, by decide, by decide, by decide, by decide, by decide, by decide, by decide, by decide, by decide,
    by decide, by decide⟩

theorem ready_flight : FlightInv ready := fun h => absurd h (by decide)

theorem busy_requests :
    busy.env.sent[busy.env.attemptAt + 0]? = some (.tx 0 7 (pulses busy.cfg ⟨0, 0, 0⟩ ++ [resetPulse busy.cfg])) ∧
    busy.env.sent[busy.env.attemptAt + 1]? = some (.tx 1 7 (pulses busy.cfg ⟨0, 0, 0⟩ ++ [resetPulse busy.cfg])) := by
  decide

theorem busy_pixels :
    (pulses busy.cfg ⟨0, 0, 0⟩).length = 24 * pixelsOf busy.blk 0 ∧
    (pulses busy.cfg ⟨0, 0, 0⟩).length = 24 * pixelsOf busy.blk 1 ∧
    outputOf busy.blk 0 = 7 ∧ outputOf busy.blk 1 = 7 := by decide

theorem busy_flight : FlightInv busy := by
  intro _
  refine ⟨by decide, fun k hk => ?_⟩
  have h2 : k < 2 := hk
  interval_cases k
  · exact ⟨_, busy_requests.1, _, by rw [busy_pixels.2.2.1], busy_pixels.1⟩
  · exact ⟨_, busy_requests.2, _, by rw [busy_pixels.2.2.2], busy_pixels.2.1⟩

/-- The inbox has no part in the requests in flight. -/
theorem withInbox_flight {s : State} (l : List Input) (h : FlightInv s) : FlightInv (withInbox l s) := h

theorem witness_IllegalWordReportsIllegalCommand :
    (0x00000010#32).extractLsb' 4 28 ≠ 0 ∧ (0x80000000#32).extractLsb' 4 28 ≠ 0 ∧
    7 ≤ ((0x00000007#32).extractLsb' 0 4).toNat ∧ 7 ≤ ((0x0000000F#32).extractLsb' 0 4).toNat :=
  ⟨by decide, by decide, by decide, by decide⟩

theorem witness_BusyRejectsAllButNopAndMarkDirty :
    busy.blk.phase = .transmitting ∧
    ∃ t, exec .markDirty (coded 6 busy) = .next t ∧ (coded 6 busy).blk.phase = .transmitting ∧ t.blk.resCode = 6 :=
  ⟨by decide, _, rfl, by decide, by decide⟩

theorem witness_NotInitializedRejectsMutatingCommands :
    fresh.blk.phase = .idle ∧ fresh.blk.life = .uninitialized ∧
    (∀ i ∈ [Instr.nop, .resetStats, .deinit, .init], ∃ t, exec i fresh = .next t) ∧
    (∀ off ∈ [0x000#12, 0x004, 0x00C, 0x014, 0x020, 0x100, 0x13C, 0xFFC],
      off ≠ 0x008 ∧ ∃ t, exec (.regWrite off 5) fresh = .next t) :=
  ⟨by decide, by decide, by simp [exec, execNop, execResetStats, execDeinit, execInit], by
    intro off h
    simp only [List.mem_cons, List.not_mem_nil, or_false] at h
    rcases h with h | h | h | h | h | h | h | h <;> subst h <;> exact ⟨by decide, _, rfl⟩⟩

theorem witness_InvalidParameterIsInitsAlone :
    (ready.blk.phase = .idle ∧ ready.blk.life = .initialized) ∧
    (State.reset.blk.phase = .idle ∧ layoutOk State.reset.cfg State.reset.blk = false) ∧
    ∃ t, exec .markDirty (coded 1 ready) = .next t ∧ Instr.markDirty ≠ .init ∧
      (∀ v, Instr.markDirty ≠ .regWrite 0x008 v) ∧ t.blk.resCode = 1 :=
  ⟨by decide, by decide, _, rfl, by decide, fun _ h => Instr.noConfusion h, by decide⟩

theorem witness_InitAllocationFailure :
    fresh.blk.phase = .idle ∧ fresh.blk.life = .uninitialized ∧ layoutOk fresh.cfg fresh.blk = true ∧
    (withDraws ⟨.fail, .ok, []⟩ fresh).env.draw.alloc = .fail := by decide

theorem witness_InitConfigurationFailureReleases :
    fresh.blk.phase = .idle ∧ fresh.blk.life = .uninitialized ∧ layoutOk fresh.cfg fresh.blk = true ∧
    (withDraws ⟨.ok, .fail, []⟩ fresh).env.draw.alloc = .ok ∧
    (withDraws ⟨.ok, .fail, []⟩ fresh).env.draw.config = .fail := by decide

theorem witness_InitSucceeds :
    fresh.blk.phase = .idle ∧ fresh.blk.life = .uninitialized ∧ layoutOk fresh.cfg fresh.blk = true ∧
    fresh.env.draw.alloc = .ok ∧ fresh.env.draw.config = .ok := by decide

theorem witness_DeinitReleasesOrDoesNothing :
    busy.blk.phase = .transmitting ∧ (ready.blk.phase = .idle ∧ ready.blk.life = .initialized) ∧
    (fresh.blk.phase = .idle ∧ fresh.blk.life = .uninitialized) := by decide

theorem witness_ShowIssuesOneRequestPerStrip :
    busy.blk.phase = .transmitting ∧ (fresh.blk.phase = .idle ∧ fresh.blk.life = .uninitialized) ∧
    (ready.blk.phase = .idle ∧ ready.blk.life = .initialized) := by decide

/-- At equality the gate is open (V-G3), one microsecond earlier it is shut (V-G2). -/
theorem witness_ShowSyncedTransmitsIffTheGateIsOpen :
    busy.blk.phase = .transmitting ∧ (fresh.blk.phase = .idle ∧ fresh.blk.life = .uninitialized) ∧
    (ready.blk.phase = .idle ∧ ready.blk.life = .initialized ∧ ready.blk.txSeen = false) ∧
    ((gateState 1000 60 17666).blk.phase = .idle ∧ (gateState 1000 60 17666).blk.life = .initialized ∧
      (BitVec.ofNat 32 (gateState 1000 60 17666).env.now - (gateState 1000 60 17666).blk.lastTxTime).toNat =
        1000000 / (gateState 1000 60 17666).blk.targetFps.toNat) ∧
    ((gateState 1000 60 17665).blk.txSeen = true ∧
      (BitVec.ofNat 32 (gateState 1000 60 17665).env.now - (gateState 1000 60 17665).blk.lastTxTime).toNat + 1 =
        1000000 / (gateState 1000 60 17665).blk.targetFps.toNat) := by decide

theorem witness_MarkDirtySetsOnlyTheFlag :
    busy.blk.life = .initialized ∧ ready.blk.life = .initialized ∧ fresh.blk.life = .uninitialized := by decide

theorem witness_ResetStatsClearsTheRecord :
    busy.blk.phase = .transmitting ∧ ready.blk.phase = .idle ∧ fresh.blk.phase = .idle := by decide

theorem witness_RejectionIsPrecise :
    ∃ t, exec .showFrame fresh = .next t ∧ t.blk.resCode ≠ 0 ∧
      (t.blk.resCode, t.blk.resTx, t.blk.resOp) ≠ (fresh.blk.resCode, fresh.blk.resTx, fresh.blk.resOp) :=
  ⟨_, rfl, by decide, by decide⟩

theorem witness_CommandFrame :
    (∃ t, Instr.resetStats ∈ [Instr.nop, .init, .deinit, .showFrame, .showSynced, .markDirty, .resetStats] ∧
      exec .resetStats ready = .next t) ∧
    ∃ t, exec (.illegal 0x13) busy = .next t :=
  ⟨⟨_, by decide, rfl⟩, _, rfl⟩

/-- The first and the last element. -/
theorem witness_EncodeIsInjective :
    Params.p0.Valid ∧ 0 < 24 ∧ 23 < 24 ∧ pulses Params.p0 ⟨1, 2, 3⟩ = pulses Params.p0 ⟨1, 2, 3⟩ := by decide

theorem witness_ResetDescriptorLastsFiftyMicroseconds : Params.p0.Valid := p0_valid

theorem witness_StripListCoversEveryPixelAndEndsInReset :
    0 < pixelsOf ready.blk 0 ∧ pixelsOf ready.blk 2 = 0 ∧
    219 < pixelsOf (laidOut 4 [180, 220, 180, 220, 0, 0, 0, 0]).blk 3 := by decide

theorem witness_WireTimeIsTheSameForEveryColour :
    Params.p0.t0h.toNat + Params.p0.t0l.toNat = 50 ∧ Params.p0.t1h.toNat + Params.p0.t1l.toNat = 50 := by decide

/-- S6's layout: the first and the last index of a strip, the first one out of range. -/
theorem witness_FlatAndUnflatAreInverse :
    (3 < (laidOut 4 [180, 220, 180, 220, 0, 0, 0, 0]).blk.stripCount.toNat ∧
      219 < pixelsOf (laidOut 4 [180, 220, 180, 220, 0, 0, 0, 0]).blk 3) ∧
    0 < totalOf (laidOut 4 [180, 220, 180, 220, 0, 0, 0, 0]).blk ∧
    799 < totalOf (laidOut 4 [180, 220, 180, 220, 0, 0, 0, 0]).blk ∧
    totalOf (laidOut 4 [180, 220, 180, 220, 0, 0, 0, 0]).blk ≤ 800 := by decide

/-- The edges of the register ranges, with 8 and with 16 strips. -/
theorem witness_RegReadReturnsTheRegister :
    busy.cfg.Valid ∧ (0 < busy.cfg.maxStrips ∧ 7 < busy.cfg.maxStrips) ∧
    (∀ off ∈ [0x0B4#12, 0x0FC, 0x140, 0xFFC], off.toNat % 4 = 0 ∧
      (0x0B4 ≤ off.toNat ∧ off.toNat < 0x100 ∨ 0x100 + 8 * busy.cfg.maxStrips ≤ off.toNat)) ∧
    (State.resetWith p16).cfg.Valid ∧ 15 < (State.resetWith p16).cfg.maxStrips ∧
    0x100 + 8 * (State.resetWith p16).cfg.maxStrips ≤ (0x180#12).toNat := by decide

theorem witness_RegWriteWritesTheField :
    fresh.cfg.Valid ∧ (0x00010000#32).extractLsb' 0 16 = 0 ∧ (0x0001001E#32).extractLsb' 0 16 ≠ 0 ∧
    fresh.blk.life = .uninitialized ∧ ready.blk.life = .initialized ∧ 7 < ready.cfg.maxStrips ∧
    (∀ off ∈ [0x000#12, 0x00C, 0x0FC, 0x140, 0xFFC], off.toNat % 4 = 0 ∧
      off.toNat ∉ [0x008, 0x014, 0x020, 0x024, 0x028] ∧
      (off.toNat < 0x100 ∨ 0x100 + 8 * fresh.cfg.maxStrips ≤ off.toNat)) := by decide

theorem witness_MisalignedOffsetIsABusError :
    ∀ off ∈ [0x001#12, 0x002, 0x003, 0xFFF], off.toNat % 4 ≠ 0 := by decide

theorem witness_RegWriteFrame :
    ∃ t, exec (.regWrite 0x104 9) fresh = .next t ∧ (0x104#12).toNat ≠ 0x008 ∧ t.blk.stripOutput ≠ fresh.blk.stripOutput :=
  ⟨_, rfl, by decide, by decide⟩

theorem witness_RegisterWritesAreIdempotent :
    ∃ t, exec (.regWrite 0x014 30) busy = .next t ∧ (0x014#12).toNat ≠ 0x008 :=
  ⟨_, rfl, by decide⟩

theorem witness_AnswerTakesItsStripOutOfPend :
    ((withInbox [told 1 .ok] ready).env.inbox = [⟨5, .answer 1 .ok, noDraws⟩] ∧ ready.blk.phase = .idle) ∧
    ((withInbox [told 0 .ok] lastOne).env.inbox = [⟨5, .answer 0 .ok, noDraws⟩] ∧ 0 ∉ lastOne.blk.pend) ∧
    ((withInbox [told 1 .fail] busy).env.inbox = [⟨5, .answer 1 .fail, noDraws⟩] ∧ busy.blk.phase = .transmitting ∧
      1 ∈ busy.blk.pend ∧ ∃ j ∈ busy.blk.pend, j ≠ 1) ∧
    (lastOne.blk.phase = .transmitting ∧ 1 ∈ lastOne.blk.pend ∧ ∀ j ∈ lastOne.blk.pend, j = 1) := by decide

theorem witness_LastAnswerCompletesASuccess :
    (withInbox [told 1 .ok] lastOne).env.inbox = [⟨5, .answer 1 .ok, noDraws⟩] ∧ lastOne.blk.phase = .transmitting ∧
    1 ∈ lastOne.blk.pend ∧ (∀ j ∈ lastOne.blk.pend, j = 1) ∧ lastOne.blk.failSeen = false := by decide

/-- Once with the failure in the last answer, once with an earlier one. -/
theorem witness_LastAnswerReportsAFailure :
    ((withInbox [told 1 .fail] lastOne).env.inbox = [⟨5, .answer 1 .fail, noDraws⟩] ∧
      lastOne.blk.phase = .transmitting ∧ 1 ∈ lastOne.blk.pend ∧ ∀ j ∈ lastOne.blk.pend, j = 1) ∧
    (noteAnswer 0 .fail busy).blk.phase = .transmitting ∧ (noteAnswer 0 .fail busy).blk.pend = [1] ∧
    (noteAnswer 0 .fail busy).blk.failSeen = true := by decide

/-- The answers of P1's kind, out of order; the failing case has one fail among them. -/
theorem witness_EveryOrderOfAnswersCompletes :
    BlockInv busy.cfg busy.blk ∧ busy.blk.phase = .transmitting ∧ busy.blk.failSeen = false ∧
    (withInbox [told 1 .ok, told 0 .ok] busy).env.inbox = [told 1 .ok, told 0 .ok] ++ [] ∧
    [told 1 .ok, told 0 .ok].map (fun e => e.ev) =
      [(1, Answer.ok), (0, .ok)].map (fun q => Event.answer q.1 q.2) ∧
    ([(1, Answer.ok), (0, .ok)].map Prod.fst).Perm busy.blk.pend ∧
    ([(1, Answer.fail), (0, .ok)].map Prod.fst).Perm busy.blk.pend ∧
    (∃ q ∈ [(1, Answer.fail), (0, .ok)], q.2 = .fail) :=
  ⟨busy_inv, by decide, by decide, by decide, by decide, by decide, by decide, by decide⟩

/-- The inputs of a fair environment: the answers out of order, a poll and a rejected command between them, a race, a change
of the pipeline and a late duplicate. -/
def fairInputs (a : Answer) : List Input :=
  [host (.read 0x004 4), told 1 a, host (cmd 3), ⟨2, .paint 0 ⟨1, 2, 3⟩, noDraws⟩, told 0 .ok, told 0 .ok]

/-- With the duplicate, strip 0 is told twice: the duty is met without it. The second clause takes inputs with no answer but one
for a strip that is not pending. -/
theorem witness_FairAnswersEndTheAttempt :
    busy.cfg.Valid ∧ BlockInv busy.cfg busy.blk ∧ busy.blk.phase = .transmitting ∧ busy.blk.failSeen = false ∧
    (∀ a, ∀ e ∈ (fairInputs a).take 5, calmInput busy.cfg.ledcBase e = true) ∧
    (∀ a, AnsweredOnce busy.blk.pend ((fairInputs a).take 5)) ∧ ¬ AnsweredOnce busy.blk.pend (fairInputs .ok) ∧
    (∀ q ∈ answersIn ((fairInputs .ok).take 5), q.2 = .ok) ∧
    (∃ q ∈ answersIn ((fairInputs .fail).take 5), q.2 = .fail) ∧
    (∀ e ∈ [host (.read 0x004 4), told 7 .ok, ⟨1, .pipeline Pipeline.p1, noDraws⟩],
      calmInput busy.cfg.ledcBase e = true) ∧
    ∀ q ∈ answersIn [host (.read 0x004 4), told 7 .ok, ⟨1, .pipeline Pipeline.p1, noDraws⟩], q.1 ∉ busy.blk.pend :=
  ⟨by decide, busy_inv, by decide, by decide, fun a => by cases a <;> decide, fun a => by cases a <;> decide, by decide,
    by decide, by decide, by decide, by decide⟩

/-- The block that has tried to transmit before, its gate open because exactly one interval has passed. -/
theorem gate_inv : BlockInv (gateState 1000 60 17666).cfg (gateState 1000 60 17666).blk :=
  ⟨by decide, by decide, by decide, by decide, by decide, by decide, by decide, by decide, by decide, by decide,
    by decide, by decide⟩

/-- The second show 16 665 microseconds after the first, one short of the interval; the first one's gate is open because no
attempt was seen, and then because the interval has passed. -/
theorem witness_TwoSyncedShowsWithinOneIntervalTransmitOnce :
    ready.cfg.Valid ∧ BlockInv ready.cfg ready.blk ∧ ready.blk.phase = .idle ∧ ready.blk.life = .initialized ∧
    ready.blk.txSeen = false ∧ ready.blk.stat.shows.toNat < 2 ^ 32 - 1 ∧
    (host (cmd 4)).ev = .host (.write (ready.cfg.ledcBase + 0x008) 4 4) ∧
    [1, 0].Perm (List.range ready.blk.stripCount.toNat) ∧
    [told 1 .ok, told 0 .ok].map (fun e => e.ev) = [1, 0].map (fun k => Event.answer k .ok) ∧
    ([told 1 .ok, told 0 .ok].map (fun e => e.dt)).sum + 16655 < 1000000 / ready.blk.targetFps.toNat ∧
    (BlockInv (gateState 1000 60 17666).cfg (gateState 1000 60 17666).blk ∧
      (gateState 1000 60 17666).blk.phase = .idle ∧ (gateState 1000 60 17666).blk.life = .initialized ∧
      (gateState 1000 60 17666).blk.txSeen = true ∧
      1000000 / (gateState 1000 60 17666).blk.targetFps.toNat =
        (BitVec.ofNat 32 ((gateState 1000 60 17666).env.now + (host (cmd 4)).dt) -
          (gateState 1000 60 17666).blk.lastTxTime).toNat) :=
  ⟨by decide, ready_inv, by decide, by decide, by decide, by decide, by decide, by decide, by decide, by decide,
    gate_inv, by decide⟩

theorem witness_HardwareResetSetsEveryElement :
    (withInbox [⟨3, .reset, noDraws⟩] busy).cfg = Params.p0 ∧
    (withInbox [⟨3, .reset, noDraws⟩] busy).env.inbox = [⟨3, .reset, noDraws⟩] := by decide

theorem witness_DecodeOfEncodeIsTheInstruction :
    ∀ i ∈ [Instr.nop, .init, .deinit, .showFrame, .showSynced, .markDirty, .resetStats, .illegal 0x13, .regRead 0xFFC,
      .regWrite 0x000 0xFFFFFFFF], i.wf = true ∧ (encode 0x1000 i).isSome = true := by decide

theorem witness_EncodeOfDecodeIsTheAccess :
    decodeAccess 0x1000 (.write 0x1008 4 0xFFFFFFFF) = .instr (.illegal 0xFFFFFFFF) ∧
    decodeAccess 0x1000 (.read 0x1FFC 4) = .instr (.regRead 0xFFC) := by decide

theorem witness_ByteLanesAreLittleEndian :
    ([] : List Byte).length ≠ 4 ∧ ([1, 2, 3] : List Byte).length ≠ 4 ∧ ([1, 2, 3, 4, 5] : List Byte).length ≠ 4 := by
  decide

theorem witness_StepRunsTheDecodedOperation :
    ((withInbox [host (cmd 3)] ready).env.inbox = [⟨0, .host (cmd 3), noDraws⟩] ∧
      decodeAccess ready.cfg.ledcBase (cmd 3) = .instr .showFrame) ∧
    ((withInbox [host (.read 0x1000 4)] ready).env.inbox = [⟨0, .host (.read 0x1000 4), noDraws⟩] ∧
      decodeAccess ready.cfg.ledcBase (.read 0x1000 4) = .elsewhere) ∧
    ready.env.inbox = [] := by decide

/-- The first and the last bytes of the window. -/
theorem witness_UnalignedOrNarrowAccessIsABusError :
    ready.cfg.Valid ∧ (ready.cfg.ledcBase ≤ 0 ∧ 0 < ready.cfg.ledcBase + 4096 ∧ 1 ≠ 4) ∧
    (ready.cfg.ledcBase ≤ 4095 ∧ 4095 < ready.cfg.ledcBase + 4096 ∧ 4095 % 4 ≠ 0) ∧
    (withInbox [host (.read 0 1)] ready).env.inbox = [⟨0, .host (.read 0 1), noDraws⟩] ∧
    (withInbox [host (.write 4095 4 0)] ready).env.inbox = [⟨0, .host (.write 4095 4 0), noDraws⟩] := by decide

theorem witness_OnlyUnlawfulAccessesStop :
    step (withInbox [host (.read 0x002 4)] ready) = .fault (.busError 0x002 4) ∧
    ∀ e ∈ (withInbox [host (cmd 3), told 0 .ok] ready).env.inbox, ∀ a, e.ev = .host a →
      lawfulAccess ready.cfg.ledcBase a = true :=
  ⟨rfl, by
    intro e he a h
    simp only [withInbox, List.mem_cons, List.not_mem_nil, or_false] at he
    rcases he with he | he <;> subst he
    · cases h
      decide
    · cases h⟩

theorem witness_EveryStepKeepsTheBlockInvariant :
    ∃ t, busy.cfg.Valid ∧ BlockInv (withInbox [told 1 .ok] busy).cfg (withInbox [told 1 .ok] busy).blk ∧
      step (withInbox [told 1 .ok] busy) = .next t :=
  ⟨_, by decide, busy_inv, rfl⟩

theorem lastOne_stats : StatsInv lastOne.blk.stat :=
  ⟨by decide, by decide, by decide, by decide, by decide⟩

/-- The step that takes the first sample. -/
theorem witness_EveryStepKeepsTheStatisticsBounds :
    ∃ t, StatsInv (withInbox [told 1 .ok] lastOne).blk.stat ∧ step (withInbox [told 1 .ok] lastOne) = .next t ∧
      t.blk.stat.shows = 1 :=
  ⟨_, lastOne_stats, rfl, by decide⟩

/-- A step that races with the attempt in flight. -/
theorem witness_EveryStepKeepsTheListsInFlight :
    ∃ t, busy.cfg.Valid ∧ BlockInv busy.cfg busy.blk ∧
      FlightInv (withInbox [⟨0, .paint 1 ⟨0, 0xFF, 0⟩, ⟨.ok, .ok, [1]⟩⟩] busy) ∧
      step (withInbox [⟨0, .paint 1 ⟨0, 0xFF, 0⟩, ⟨.ok, .ok, [1]⟩⟩] busy) = .next t :=
  ⟨_, by decide, busy_inv, withInbox_flight _ busy_flight, rfl⟩

/-- A step that writes, and one that takes an entry out again. -/
theorem witness_EveryStepKeepsTheFrontBufferCanonical :
    (∃ t, (withInbox [⟨0, .paint 3 ⟨1, 2, 3⟩, noDraws⟩] ready).env.fb.wf ∧
      step (withInbox [⟨0, .paint 3 ⟨1, 2, 3⟩, noDraws⟩] ready) = .next t ∧ t.env.fb = [(3, ⟨1, 2, 3⟩)]) ∧
    Memory.wf [(1, ⟨1, 0, 0⟩), (3, ⟨1, 2, 3⟩)] ∧ Memory.write [(3, ⟨1, 2, 3⟩)] 3 ⟨0, 0, 0⟩ = [] :=
  ⟨⟨_, by decide, rfl, by decide⟩, by decide, by decide⟩

theorem witness_ResetHasTheInvariants : Params.p0.Valid ∧ p16.Valid := ⟨p0_valid, p16_valid⟩

theorem witness_NoStepChangesAParameter : ∃ t, step (withInbox [host (cmd 3)] ready) = .next t := ⟨_, rfl⟩

/-- A write of the layout while Initialized. -/
theorem witness_LayoutIsLockedWhileInitialized :
    ∃ t, step (withInbox [host (.write 0x020 4 3)] ready) = .next t ∧ ready.blk.life = .initialized ∧
      t.blk.life = .initialized :=
  ⟨_, rfl, by decide, by decide⟩

/-- Each transition of the table is taken by some step. -/
theorem witness_OnlyTheTableOfLifecycleTransitions :
    BlockInv busy.cfg busy.blk ∧ BlockInv ready.cfg ready.blk ∧
    statusOf (step (withInbox [host (cmd 1)] fresh)) = some 0x5 ∧
    statusOf (step (withInbox [host (cmd 3)] ready)) = some 0xF ∧
    statusOf (step (withInbox [told 1 .ok] lastOne)) = some 0x9 ∧
    statusOf (step (withInbox [host (cmd 2)] ready)) = some 0 ∧
    statusOf (step (withInbox [⟨0, .reset, noDraws⟩] busy)) = some 0 :=
  ⟨busy_inv, ready_inv, by decide, by decide, by decide, by decide, by decide⟩

theorem witness_OnlySuccessAndResetWriteTheStatistics :
    (∃ t, step (withInbox [told 1 .ok] lastOne) = .next t ∧ t.blk.stat ≠ lastOne.blk.stat) ∧
    ∃ t, step (withInbox [host (cmd 6)]
        { ready with blk := { ready.blk with stat := statsUpdate Stats.reset 5 6 } }) = .next t ∧
      t.blk.stat ≠ statsUpdate Stats.reset 5 6 :=
  ⟨⟨_, rfl, by decide⟩, _, rfl, by decide⟩

theorem witness_OnlyTheNamedEventsChangeTheDirtyFlag :
    (∃ t, step (withInbox [host (cmd 1)] fresh) = .next t ∧ t.blk.dirty ≠ fresh.blk.dirty) ∧
    (∃ t, step (withInbox [host (cmd 2)] ready) = .next t ∧ t.blk.dirty ≠ ready.blk.dirty) ∧
    (∃ t, step (withInbox [told 1 .ok] lastOne) = .next t ∧ t.blk.dirty ≠ lastOne.blk.dirty) ∧
    ∃ t, step (withInbox [⟨0, .reset, noDraws⟩] busy) = .next t ∧ t.blk.dirty ≠ busy.blk.dirty :=
  ⟨⟨_, rfl, by decide⟩, ⟨_, rfl, by decide⟩, ⟨_, rfl, by decide⟩, _, rfl, by decide⟩

theorem witness_OnlyTheBufferManagerWritesTheFrontBuffer :
    (∃ t, exec .showFrame ready = .next t) ∧
    (∃ t, step (withInbox [⟨0, .paint 3 ⟨1, 2, 3⟩, noDraws⟩] ready) = .next t ∧
      t.env.fb.read 3 ≠ ready.env.fb.read 3) ∧
    ∃ t, step (withInbox [⟨0, .swap [(3, ⟨1, 2, 3⟩)], noDraws⟩] ready) = .next t ∧
      t.env.fb.read 3 ≠ ready.env.fb.read 3 :=
  ⟨⟨_, rfl⟩, ⟨_, rfl, by decide⟩, _, rfl, by decide⟩

theorem witness_PixelWritesAreVisibleAndLocal :
    Memory.wf [(1, ⟨1, 0, 0⟩)] ∧ ready.blk.phase = .idle ∧
    (withInbox [⟨2, .paint 3 ⟨1, 2, 3⟩, noDraws⟩] ready).env.inbox = [⟨2, .paint 3 ⟨1, 2, 3⟩, noDraws⟩] ∧
    (withInbox [⟨2, .swap [(3, ⟨1, 2, 3⟩), (3, ⟨4, 5, 6⟩)], noDraws⟩] ready).env.inbox =
      [⟨2, .swap [(3, ⟨1, 2, 3⟩), (3, ⟨4, 5, 6⟩)], noDraws⟩] := by decide

/-- Settings unlike those in force at reset. -/
def dark : Pipeline := ⟨0, true, false, 9⟩

/-- An idle block whose pipeline was changed since its last attempt. -/
def retuned : State := { ready with env := { ready.env with pipe := dark } }

/-- Pixel 0 of strip 1 has flat index 1; once the draw names it, once not. Then a swap in flight, a change of the pipeline, and
the step of a SHOW that latches the changed settings. -/
theorem witness_RacedPixelIsOldOrNew :
    busy.cfg.Valid ∧ BlockInv busy.cfg busy.blk ∧ FlightInv busy ∧ busy.env.fb.wf ∧ busy.blk.phase = .transmitting ∧
    unflat busy.blk 1 = some (1, 0) ∧
    (withInbox [⟨0, .paint 1 ⟨0, 0xFF, 0⟩, ⟨.ok, .ok, [1]⟩⟩] busy).env.inbox =
      [⟨0, .paint 1 ⟨0, 0xFF, 0⟩, ⟨.ok, .ok, [1]⟩⟩] ∧ 1 ∈ [1] ∧ 1 ∉ noDraws.taken ∧
    (FlightInv (withInbox [⟨0, .swap [(1, ⟨0, 0xFF, 0⟩)], ⟨.ok, .ok, [1]⟩⟩] busy) ∧
      0 < busy.blk.stripCount.toNat ∧ 1 < busy.blk.stripCount.toNat ∧ 0 < pixelsOf busy.blk 1 ∧
      flat busy.blk 1 0 ∈ [1] ∧ flat busy.blk 0 0 ∉ [1]) ∧
    (withInbox [⟨3, .pipeline dark, noDraws⟩] busy).env.inbox = [⟨3, .pipeline dark, noDraws⟩] ∧
    ∃ t, step (withInbox [host (cmd 3)] retuned) = .next t ∧ t.env.pipeAtIssue ≠ retuned.env.pipeAtIssue :=
  ⟨by decide, busy_inv, busy_flight, by decide, by decide, by decide, by decide, by decide, by decide,
    ⟨withInbox_flight _ busy_flight, by decide⟩, by decide, _, rfl, by decide⟩

theorem witness_TimeNeverRunsBackwards : ∃ t, step (withInbox [told 1 .ok] busy) = .next t := ⟨_, rfl⟩

theorem witness_PipelineMeetsItsProperties :
    (Pipeline.p1.brightness = 255 ∧ Pipeline.p1.gamma = false ∧ Pipeline.p1.unity = true) ∧
    dark.brightness = 0 := by decide

theorem witness_LayoutCheckIsTheThreeConditions :
    layoutOk fresh.cfg fresh.blk = true ∧ layoutOk State.reset.cfg State.reset.blk = false := by decide

end Sys2Proof.Tests
end

section
/-! SUPPORT. Time passes only as an input is taken, and the two properties of the colour pipeline (00_scope.md R15,
R17). -/

namespace Sys2Proof.Machine

@[simp] theorem successInit_env (s : State) :
    (successInit s).env = { s.env with sent := s.env.sent ++ [.brightnessCap (maxBrightness s.blk.initFlags)] } := rfl

/-- A command hands out requests and records an issue; the rest of the environment stays. -/
theorem execCommand_env {c : Command} {s t : State} (h : execCommand c s = .next t) :
    t.env = { s.env with
      sent := t.env.sent, attemptAt := t.env.attemptAt, pipeAtIssue := t.env.pipeAtIssue } := by
  rcases execCommand_next h with ⟨_, _, _, rfl⟩ | ⟨_, _, _, _, rfl | rfl | rfl⟩ | ⟨_, _, _, rfl⟩ |
    ⟨_, _, _, _, rfl⟩ | ⟨_, _, rfl⟩ | ⟨_, _, rfl⟩ <;> simp

/-- An operation writes the records of what it hands out, returns and issues; the rest of the environment stays. -/
theorem exec_env {i : Instr} {s t : State} (h : exec i s = .next t) :
    t.env = { s.env with
      sent := t.env.sent, attemptAt := t.env.attemptAt, pipeAtIssue := t.env.pipeAtIssue,
      rdata := t.env.rdata, descs := t.env.descs } := by
  rcases exec_next h with ⟨c, _, hc⟩ | ⟨_, _, _, rfl⟩ | ⟨_, rfl⟩ |
    ⟨_, _, _, _, _, rfl | ⟨_, _, rfl⟩ | ⟨_, rfl⟩ | ⟨_, _, _, rfl⟩⟩
  · rw [execCommand_env hc]
  all_goals simp

/-- An answer is the block's to note: the environment stays (R206). -/
@[simp] theorem answer_env (k : Nat) (a : Answer) (s : State) : (answer k a s).env = s.env := by
  rcases answer_cases k a s with ⟨_, h⟩ | ⟨_, _, ⟨_, h⟩ | ⟨_, _, h⟩ | ⟨_, _, h⟩⟩ <;> simp [h]

theorem race_now (w : Nat → Bool) (s : State) : (race w s).env.now = s.env.now := by
  obtain ⟨-, -, henv, -⟩ := race_frame w s
  rw [henv]

/-- No event takes time: it passes before the event, as the input is taken. -/
theorem runEvent_now {ev : Event} {s t : State} (h : runEvent ev s = .next t) : t.env.now = s.env.now := by
  cases ev with
  | host a =>
    rcases hostAccess_cases h with ⟨i, _, hi⟩ | ⟨_, rfl⟩
    · rw [exec_env hi]
    · rfl
  | answer k a => cases h; simp
  | reset => cases h; simp
  | paint i c => cases h; exact race_now _ _
  | swap buf => cases h; exact race_now _ _
  | pipeline p => cases h; simp

/-- The time after a step: that before it, and the microseconds of the input it took. -/
theorem step_now {s t : State} (h : step s = .next t) :
    t.env.now = s.env.now + (s.env.inbox.head?.map Input.dt).getD 0 := by
  rcases step_cases h with ⟨hi, rfl⟩ | ⟨e, rest, hi, he⟩
  · simp [hi]
  · simp [runEvent_now he, hi]

/-- Property P1 (R15). -/
theorem correct_of_p1 {pipe : Pipeline} (hb : pipe.brightness = 255) (hg : pipe.gamma = false)
    (hu : pipe.unity = true) (c : Color) : correct pipe c = c := by
  have h0 : pipe.brightness ≠ 0 := by rw [hb]; decide
  unfold correct
  rw [if_neg h0, if_pos ⟨hb, hg, hu⟩]

/-- Property P2 (R15). -/
theorem correct_of_p2 {pipe : Pipeline} (hb : pipe.brightness = 0) (c : Color) : correct pipe c = Color.black := by
  unfold correct
  exact if_pos hb

end Sys2Proof.Machine
end

section
/-! The statements of 00_scope.md. -/

namespace Sys2Proof.Proofs

open Sys2Proof.Machine

/-- Settles O59: a step adds the microseconds of the input it takes, and the wrapped sample is the low word. -/
theorem timeNeverRunsBackwards : Obligations.TimeNeverRunsBackwards := by
  unfold Obligations.TimeNeverRunsBackwards
  refine ⟨fun s t h => ?_, timeUs_toNat⟩
  rw [step_now h]
  exact Nat.le_add_right _ _

/-- Settles O60: the pipeline's two properties, each at its own brightness. -/
theorem pipelineMeetsItsProperties : Obligations.PipelineMeetsItsProperties := by
  unfold Obligations.PipelineMeetsItsProperties
  exact fun _ c => ⟨fun hb hg hu => correct_of_p1 hb hg hu c, fun hb => correct_of_p2 hb c⟩

end Sys2Proof.Proofs
end

section
/-! SUPPORT. What one step does to the block's tuple, said once: an inductive predicate with a constructor per outcome
for the operations, the answers and the whole step. An invariant of the tuple is then proved constructor by constructor
(10_state.md R33, 41_scheduler.md sections 1 to 6, 42_register_access.md R252). -/

namespace Sys2Proof.Machine

@[simp] theorem successInit_cfg (s : State) : (successInit s).cfg = s.cfg := rfl
@[simp] theorem successInit_blk (s : State) :
    (successInit s).blk = { s.blk with
      life := .initialized, dirty := true, txSeen := false, resCode := 0, resTx := false, resOp := 1 } := rfl

@[simp] theorem paint_cfg (i : Nat) (c : Color) (s : State) : (paint i c s).cfg = s.cfg := (race_frame _ _).1
@[simp] theorem paint_blk (i : Nat) (c : Color) (s : State) : (paint i c s).blk = s.blk := (race_frame _ _).2.1
@[simp] theorem swapBuffers_cfg (buf : List (Nat × Color)) (s : State) : (swapBuffers buf s).cfg = s.cfg :=
  (race_frame _ _).1
@[simp] theorem swapBuffers_blk (buf : List (Nat × Color)) (s : State) : (swapBuffers buf s).blk = s.blk :=
  (race_frame _ _).2.1

/-- What operation `i` makes of the block `b`, under the parameters `p`. -/
inductive ExecEffect (p : Params) (i : Instr) (b : Block) : Block → Prop where
  /-- The block stays: a read, an encoding, an ignored write. -/
  | same : ExecEffect p i b b
  /-- `RESULT` alone: a rejection, or a command that does no more than report (R181, R271). -/
  | result (code op : BitVec 4) (defined : code.toNat ≤ 7) :
      ExecEffect p i b { b with resCode := code, resTx := false, resOp := op }
  /-- A successful `INIT` (R192). -/
  | initialized (carried : Carries i .init) (idle : b.phase = .idle) (layout : layoutOk p b = true) :
      ExecEffect p i b { b with
        life := .initialized, dirty := true, txSeen := false, resCode := 0, resTx := false, resOp := 1 }
  /-- `DEINIT` of an Initialized block (R195). -/
  | released (carried : Carries i .deinit) (idle : b.phase = .idle) (life : b.life = .initialized) :
      ExecEffect p i b { b with
        life := .uninitialized, dirty := false, txSeen := false, resCode := 0, resTx := false, resOp := 2 }
  /-- The issue of an attempt, at time `t` (R200). -/
  | issued (op : BitVec 4) (t : Word) (shows : op = 3 ∨ op = 4) (idle : b.phase = .idle)
      (life : b.life = .initialized) :
      ExecEffect p i b { b with
        tStart := t, lastTxTime := t, txSeen := true, op := op, failSeen := false,
        pend := List.range b.stripCount.toNat, phase := .transmitting }
  /-- `MARK_DIRTY` (R215). -/
  | marked (carried : Carries i .markDirty) : ExecEffect p i b { b with dirty := true }
  /-- `RESET_STATS` (R216). -/
  | cleared (carried : Carries i .resetStats) :
      ExecEffect p i b { b with stat := Stats.reset, resCode := 0, resTx := false, resOp := 6 }
  /-- A write of `TARGET_FPS` (R46). -/
  | fpsWritten (f : BitVec 16) (positive : f ≠ 0) : ExecEffect p i b { b with targetFps := f }
  /-- A write of `ENC_COLOR` (R51). -/
  | colorWritten (c : Color) : ExecEffect p i b { b with encColor := c }
  /-- A write of a layout register (R66). -/
  | layoutWritten (b' : Block) (life : b.life = .uninitialized) (written : LayoutWritten b b') : ExecEffect p i b b'

theorem execCommand_effect {i : Instr} {c : Command} {s t : State} (hi : Carries i c)
    (h : execCommand c s = .next t) : t.cfg = s.cfg ∧ ExecEffect s.cfg i s.blk t.blk := by
  rcases execCommand_next h with ⟨code, op, hcode, rfl⟩ | ⟨rfl, hp, _, hk, rfl | rfl | rfl⟩ | ⟨rfl, hp, hl, rfl⟩ |
    ⟨op, hop, hp, hl, rfl⟩ | ⟨rfl, _, rfl⟩ | ⟨rfl, _, rfl⟩
  · exact ⟨rfl, .result code op hcode⟩
  · exact ⟨rfl, .result 2 1 (by decide)⟩
  · exact ⟨rfl, .result 3 1 (by decide)⟩
  · exact ⟨rfl, .initialized hi hp hk⟩
  · exact ⟨rfl, .released hi hp hl⟩
  · exact ⟨rfl, .issued op (timeUs s) (hop.imp And.right And.right) hp hl⟩
  · exact ⟨rfl, .marked hi⟩
  · exact ⟨rfl, .cleared hi⟩

/-- An operation keeps the parameters and has one of the effects. -/
theorem exec_effect {i : Instr} {s t : State} (h : exec i s = .next t) :
    t.cfg = s.cfg ∧ ExecEffect s.cfg i s.blk t.blk := by
  rcases exec_next h with ⟨c, hi, hc⟩ | ⟨_, _, _, rfl⟩ | ⟨_, rfl⟩ |
    ⟨_, _, _, _, _, rfl | ⟨f, hf, rfl⟩ | ⟨c, rfl⟩ | ⟨hl, b, hb, rfl⟩⟩
  · exact execCommand_effect hi hc
  · exact ⟨rfl, .same⟩
  · exact ⟨rfl, .same⟩
  · exact ⟨rfl, .same⟩
  · exact ⟨rfl, .fpsWritten f hf⟩
  · exact ⟨rfl, .colorWritten c⟩
  · exact ⟨rfl, .layoutWritten b hl hb⟩

/-- What an answer `a` for strip `k` makes of the block `b` (R206). -/
inductive AnswerEffect (k : Nat) (a : Answer) (b : Block) : Block → Prop where
  /-- Nobody waits for it. -/
  | ignored : AnswerEffect k a b b
  /-- Noted: other strips still wait. -/
  | noted (busy : b.phase = .transmitting) (pending : k ∈ b.pend) (left : b.pend.filter (· != k) ≠ []) :
      AnswerEffect k a b { b with pend := b.pend.filter (· != k), failSeen := b.failSeen || a == .fail }
  /-- The last answer of an attempt with a failure (R209). -/
  | failed (busy : b.phase = .transmitting) (pending : k ∈ b.pend) (failure : (b.failSeen || a == .fail) = true) :
      AnswerEffect k a b { b with
        pend := [], failSeen := true, phase := .idle, resCode := 4, resTx := false, resOp := b.op }
  /-- The last answer of an attempt without one, of duration `d` (R208). -/
  | succeeded (d : Word) (busy : b.phase = .transmitting) (pending : k ∈ b.pend)
      (noFailure : (b.failSeen || a == .fail) = false) :
      AnswerEffect k a b { b with
        pend := [], failSeen := false, phase := .idle, duration := d, stat := statsUpdate b.stat d b.tStart,
        dirty := false, resCode := 0, resTx := true, resOp := b.op }

theorem answer_effect (k : Nat) (a : Answer) (s : State) :
    (answer k a s).cfg = s.cfg ∧ AnswerEffect k a s.blk (answer k a s).blk := by
  rcases answer_cases k a s with ⟨_, h⟩ | ⟨hp, hk, ⟨hl, h⟩ | ⟨hl, hf, h⟩ | ⟨hl, hf, h⟩⟩ <;> rw [h]
  · exact ⟨rfl, .ignored⟩
  · exact ⟨rfl, .noted hp hk hl⟩
  · simp only [noteAnswer_blk] at hl hf
    refine ⟨rfl, ?_⟩
    simp only [toIdle_blk, failureShow_blk, noteAnswer_blk, hl, hf]
    exact .failed hp hk hf
  · simp only [noteAnswer_blk] at hl hf
    refine ⟨rfl, ?_⟩
    simp only [toIdle_blk, successShow_blk, noteAnswer_blk, hl, hf]
    exact .succeeded _ hp hk hf

/-- What a step makes of the block `b`, with the input that did it. -/
inductive StepEffect (p : Params) (inbox : List Input) (b : Block) : Block → Prop where
  /-- The block stays: no input, an access outside the window, or one of its surroundings (R93, R102, R295). -/
  | same : StepEffect p inbox b b
  /-- A host access ran an operation (R23). -/
  | host {e : Input} {rest : List Input} {a : Access} {i : Instr} {b' : Block} (head : inbox = e :: rest)
      (event : e.ev = .host a) (decoded : decodeAccess p.ledcBase a = .instr i) (effect : ExecEffect p i b b') :
      StepEffect p inbox b b'
  /-- The primitive answered (R206). -/
  | answer {e : Input} {rest : List Input} {k : Nat} {a : Answer} {b' : Block} (head : inbox = e :: rest)
      (event : e.ev = .answer k a) (effect : AnswerEffect k a b b') : StepEffect p inbox b b'
  /-- Hardware reset (R310). -/
  | reset {e : Input} {rest : List Input} (head : inbox = e :: rest) (event : e.ev = .reset) :
      StepEffect p inbox b (Block.reset p)

/-- A step keeps the parameters and has one of the effects. -/
theorem step_effect {s t : State} (h : step s = .next t) :
    t.cfg = s.cfg ∧ StepEffect s.cfg s.env.inbox s.blk t.blk := by
  rcases step_cases h with ⟨_, rfl⟩ | ⟨e, rest, hi, he⟩
  · exact ⟨rfl, .same⟩
  · cases hev : e.ev with
    | host a =>
      rw [hev] at he
      rcases hostAccess_cases he with ⟨i, hd, hx⟩ | ⟨_, rfl⟩
      · obtain ⟨hcfg, heff⟩ := exec_effect hx
        exact ⟨hcfg, .host hi hev hd heff⟩
      · exact ⟨rfl, .same⟩
    | answer k a =>
      rw [hev] at he
      cases he
      obtain ⟨hcfg, heff⟩ := answer_effect k a (takeInput e rest s)
      exact ⟨hcfg, .answer hi hev heff⟩
    | reset =>
      rw [hev] at he
      cases he
      exact ⟨rfl, .reset hi hev⟩
    | paint i c =>
      rw [hev] at he
      cases he
      exact ⟨paint_cfg _ _ _, by rw [paint_blk]; exact .same⟩
    | swap buf =>
      rw [hev] at he
      cases he
      exact ⟨swapBuffers_cfg _ _, by rw [swapBuffers_blk]; exact .same⟩
    | pipeline q =>
      rw [hev] at he
      cases he
      exact ⟨rfl, .same⟩

/-- A host access never decodes to a write of CMD: the operation that carries a command is the command (R120). -/
theorem decodeAccess_carries {base : Nat} {a : Access} {i : Instr} {c : Command}
    (hd : decodeAccess base a = .instr i) (hi : Carries i c) : i = c.toInstr := by
  rcases hi with hi | ⟨off, v, rfl, h8, -⟩
  · exact hi
  · cases a with
    | read addr size =>
      simp only [decodeAccess] at hd
      split_ifs at hd
      cases hd
    | write addr size data =>
      simp only [decodeAccess] at hd
      split_ifs at hd with _ _ hcmd
      · cases hc : decodeCommand data <;> simp [hc, Command.toInstr] at hd
      · cases hd
        exact absurd h8 hcmd

/-- A command of the table, or the illegal word, is a decoded command's operation. -/
theorem exists_toInstr {i : Instr}
    (h : i ∈ [Instr.nop, .init, .deinit, .showFrame, .showSynced, .markDirty, .resetStats] ∨ ∃ w, i = .illegal w) :
    ∃ c : Command, i = c.toInstr := by
  simp only [List.mem_cons, List.not_mem_nil, or_false] at h
  rcases h with (rfl | rfl | rfl | rfl | rfl | rfl | rfl) | ⟨w, rfl⟩
  exacts [⟨.nop, rfl⟩, ⟨.init, rfl⟩, ⟨.deinit, rfl⟩, ⟨.showFrame, rfl⟩, ⟨.showSynced, rfl⟩, ⟨.markDirty, rfl⟩,
    ⟨.resetStats, rfl⟩, ⟨.illegal w, rfl⟩]

end Sys2Proof.Machine
end


section
/-! SUPPORT. The relations between the elements of the tuple (`BlockInv`) hold at reset and are kept by each effect; the
other invariants hold right after reset (10_state.md R35, R39, R46, R50, R66, R69, 41_scheduler.md R200,
R206, 60_exceptions.md R270). -/

namespace Sys2Proof.Safety

open Sys2Proof.Machine

theorem fieldFlags_reserved (v : Word) : fieldFlags v &&& 0xFFFF00FC = 0 := by
  rw [fieldFlags, BitVec.and_assoc]
  exact BitVec.and_zero

/-- A valid layout has a strip (R191). -/
theorem one_le_stripCount_of_layoutOk {p : Params} {b : Block} (h : layoutOk p b = true) : 1 ≤ b.stripCount.toNat := by
  simp only [layoutOk, Bool.and_eq_true, decide_eq_true_eq] at h
  obtain ⟨⟨⟨h1, -⟩, -⟩, -⟩ := h
  exact h1

/-- An Uninitialized block is Idle (R35). -/
theorem BlockInv.idle_of_uninitialized {p : Params} {b : Block} (h : BlockInv p b) (hl : b.life = .uninitialized) :
    b.phase = .idle := by
  cases hp : b.phase with
  | idle => rfl
  | transmitting => exact absurd (hl.symm.trans (h.busyInitialized hp)) (by decide)

/-- Nobody waits while the block is Idle (R206). -/
theorem BlockInv.pend_nil {p : Params} {b : Block} (h : BlockInv p b) (hp : b.phase = .idle) : b.pend = [] := by
  by_contra hne
  exact absurd (hp.symm.trans (h.busyPending.2 hne)) (by decide)

/-- The block right after reset (R69). -/
theorem BlockInv.reset {p : Params} (h : p.defaultFps ≠ 0) : BlockInv p (Block.reset p) where
  busyInitialized := by simp [Block.reset]
  pendAscending := by simp [Block.reset]
  pendInLayout := by simp [Block.reset]
  busyPending := by simp [Block.reset]
  fpsPositive := h
  flagsReserved := by simp [Block.reset]
  pixelSlots := by simp [Block.reset]
  outputSlots := by simp [Block.reset]
  layoutValid := by simp [Block.reset]
  codeDefined := by simp [Block.reset]
  transmittedOk := by simp [Block.reset]
  attemptOp := by simp [Block.reset]

/-- A write of the layout of an Uninitialized block: nobody waits, so only the fields' own relations are at stake. -/
theorem BlockInv.layoutWritten {p : Params} {b b' : Block} (h : BlockInv p b) (hl : b.life = .uninitialized)
    (hw : LayoutWritten b b') : BlockInv p b' := by
  have hpend := h.pend_nil (h.idle_of_uninitialized hl)
  rcases hw with ⟨n, rfl⟩ | ⟨v, rfl⟩ | ⟨k, n, rfl⟩ | ⟨k, n, rfl⟩
  · exact { h with
      pendInLayout := by simp [hpend]
      layoutValid := by simp [hl] }
  · exact { h with
      flagsReserved := fieldFlags_reserved v }
  · exact { h with
      pixelSlots := by simp [h.pixelSlots]
      layoutValid := by simp [hl] }
  · exact { h with
      outputSlots := by simp [h.outputSlots] }

/-- An issue makes every strip of the layout wait (R200). -/
theorem BlockInv.issued {p : Params} {b : Block} (h : BlockInv p b) (op : BitVec 4) (t : Word)
    (hop : op = 3 ∨ op = 4) (hl : b.life = .initialized) :
    BlockInv p { b with
      tStart := t, lastTxTime := t, txSeen := true, op := op, failSeen := false,
      pend := List.range b.stripCount.toNat, phase := .transmitting } :=
  have hstrips := one_le_stripCount_of_layoutOk (h.layoutValid hl)
  { h with
    busyInitialized := fun _ => hl
    pendAscending := List.pairwise_lt_range
    pendInLayout := fun _ hk => List.mem_range.1 hk
    busyPending := iff_of_true rfl (by rw [Ne, List.range_eq_nil]; omega)
    attemptOp := fun _ => hop }

/-- Every operation keeps the relations. -/
theorem BlockInv.exec {p : Params} {i : Instr} {b b' : Block} (h : BlockInv p b) (he : ExecEffect p i b b') :
    BlockInv p b' := by
  cases he with
  | same => exact h
  | result code op hcode => exact { h with codeDefined := hcode, transmittedOk := by simp }
  | initialized _ hp hk =>
    exact { h with
      busyInitialized := fun _ => rfl
      layoutValid := fun _ => hk
      codeDefined := by simp
      transmittedOk := by simp }
  | released _ hp hl =>
    exact { h with
      busyInitialized := by simp [hp]
      layoutValid := by simp
      codeDefined := by simp
      transmittedOk := by simp }
  | issued op t hop hp hl => exact h.issued op t hop hl
  | marked => exact { h with }
  | cleared => exact { h with codeDefined := by simp, transmittedOk := by simp }
  | fpsWritten f hf => exact { h with fpsPositive := hf }
  | colorWritten c => exact { h with }
  | layoutWritten b' hl hw => exact h.layoutWritten hl hw

/-- The end of an attempt leaves the block Idle, whatever it reports and records (R207). -/
theorem BlockInv.ended {p : Params} {b : Block} (h : BlockInv p b) (failSeen dirty : Bool) (d : Word) (st : Stats)
    {code : BitVec 4} {tx : Bool} (op : BitVec 4) (hcode : code.toNat ≤ 7) (htx : tx = true → code = 0) :
    BlockInv p { b with
      pend := [], failSeen := failSeen, phase := .idle, dirty := dirty, duration := d, stat := st,
      resCode := code, resTx := tx, resOp := op } :=
  { h with
    busyInitialized := by simp
    pendAscending := .nil
    pendInLayout := by simp
    busyPending := by simp
    codeDefined := hcode
    transmittedOk := htx
    attemptOp := by simp }

/-- Every answer keeps the relations: a strip leaves `pend`, and the attempt ends when it was the last. -/
theorem BlockInv.answer {p : Params} {k : Nat} {a : Answer} {b b' : Block} (h : BlockInv p b)
    (he : AnswerEffect k a b b') : BlockInv p b' := by
  cases he with
  | ignored => exact h
  | noted hp _ hleft =>
    exact { h with
      pendAscending := h.pendAscending.filter _
      pendInLayout := fun j hj => h.pendInLayout j (List.mem_of_mem_filter hj)
      busyPending := iff_of_true hp hleft }
  | failed => exact h.ended true b.dirty b.duration b.stat b.op (by decide) (by simp)
  | succeeded d => exact h.ended false false d _ b.op (by decide) (by simp)

/-- Every step keeps the relations. -/
theorem BlockInv.step {p : Params} {inbox : List Input} {b b' : Block} (h : BlockInv p b) (hfps : p.defaultFps ≠ 0)
    (he : StepEffect p inbox b b') : BlockInv p b' := by
  cases he with
  | same => exact h
  | host _ _ _ heff => exact h.exec heff
  | answer _ _ heff => exact h.answer heff
  | reset => exact BlockInv.reset hfps

/-- The statistics record at its reset values (R69, R216). -/
theorem StatsInv.reset : StatsInv Stats.reset where
  empty := fun _ => rfl
  lastBounds := fun h => absurd rfl h
  avgBounds := fun h => absurd rfl h
  totalBound := fun h => absurd rfl h
  firstInterval := fun _ => rfl

/-- No attempt is in flight right after reset. -/
theorem flightInv_resetWith (p : Params) : FlightInv (State.resetWith p) :=
  fun h => absurd h (by simp [Block.reset])

end Sys2Proof.Safety
end

section
/-! SUPPORT. What the tuple's rules say of one effect: the locked layout, the table of (life, phase), the events behind
the dirty flag (10_state.md R36, R66, 41_scheduler.md section 1). -/

namespace Sys2Proof.Machine

/-- The two blocks hold the same layout (R66). -/
def SameLayout (b b' : Block) : Prop :=
  b'.stripCount = b.stripCount ∧ b'.initFlags = b.initFlags ∧ b'.stripPixels = b.stripPixels ∧
    b'.stripOutput = b.stripOutput

theorem SameLayout.refl (b : Block) : SameLayout b b := ⟨rfl, rfl, rfl, rfl⟩

/-- A write of a layout register touches the layout alone (R252). -/
theorem LayoutWritten.frame {b b' : Block} (h : LayoutWritten b b') :
    b' = { b with
      stripCount := b'.stripCount, initFlags := b'.initFlags, stripPixels := b'.stripPixels,
      stripOutput := b'.stripOutput } := by
  rcases h with ⟨_, rfl⟩ | ⟨_, rfl⟩ | ⟨_, _, rfl⟩ | ⟨_, _, rfl⟩ <;> rfl

/-- An operation writes the layout of an Uninitialized block only. -/
theorem ExecEffect.sameLayout {p : Params} {i : Instr} {b b' : Block} (h : ExecEffect p i b b')
    (hl : b.life = .initialized) : SameLayout b b' := by
  cases h with
  | layoutWritten b' hu => exact absurd (hl.symm.trans hu) (by decide)
  | _ => exact SameLayout.refl b

/-- An answer writes no layout. -/
theorem AnswerEffect.sameLayout {k : Nat} {a : Answer} {b b' : Block} (h : AnswerEffect k a b b') :
    SameLayout b b' := by
  cases h <;> exact SameLayout.refl b

/-- The rows of the table of 41_scheduler.md section 1: from a pair of lifecycle state and phase to another. -/
def lifecycleTable : List ((Life × Phase) × (Life × Phase)) :=
  [((.uninitialized, .idle), (.initialized, .idle)),
   ((.initialized, .idle), (.initialized, .transmitting)),
   ((.initialized, .transmitting), (.initialized, .idle)),
   ((.initialized, .idle), (.uninitialized, .idle)),
   ((.initialized, .transmitting), (.uninitialized, .idle))]

/-- From `b` to `b'` lifecycle and phase stay or follow a row of the table. -/
def Tabled (b b' : Block) : Prop :=
  (b.life, b.phase) = (b'.life, b'.phase) ∨ ((b.life, b.phase), (b'.life, b'.phase)) ∈ lifecycleTable

/-- Neither the table nor the block's own relations reach (Uninitialized, Transmitting). -/
theorem Tabled.reachable {b b' : Block} (h : Tabled b b') (hb : b.phase = .transmitting → b.life = .initialized) :
    (b'.life, b'.phase) ≠ (.uninitialized, .transmitting) := by
  intro heq
  rw [Tabled, heq] at h
  rcases h with h | h
  · obtain ⟨hl, hp⟩ := Prod.mk.inj h
    exact absurd (hl.symm.trans (hb hp)) (by decide)
  · simp [lifecycleTable] at h

theorem ExecEffect.tabled {p : Params} {i : Instr} {b b' : Block} (h : ExecEffect p i b b') : Tabled b b' := by
  cases h with
  | initialized _ hp hk =>
    cases hl : b.life with
    | initialized => exact .inl (by simp [hl])
    | uninitialized => exact .inr (by simp [lifecycleTable, hp, hl])
  | released _ hp hl => exact .inr (by simp [lifecycleTable, hp, hl])
  | issued _ _ _ hp hl => exact .inr (by simp [lifecycleTable, hp, hl])
  | layoutWritten _ _ hw => exact .inl (by rw [hw.frame])
  | _ => exact .inl rfl

theorem AnswerEffect.tabled {k : Nat} {a : Answer} {b b' : Block} (h : AnswerEffect k a b b')
    (hb : b.phase = .transmitting → b.life = .initialized) : Tabled b b' := by
  cases h with
  | failed hp => exact .inr (by simp [lifecycleTable, hp, hb hp])
  | succeeded d hp => exact .inr (by simp [lifecycleTable, hp, hb hp])
  | _ => exact .inl rfl

theorem tabled_reset {p : Params} {b : Block} (hb : b.phase = .transmitting → b.life = .initialized) :
    Tabled b (Block.reset p) := by
  cases hp : b.phase with
  | idle => cases hl : b.life <;> simp [Tabled, lifecycleTable, Block.reset, hp, hl]
  | transmitting => exact .inr (by simp [lifecycleTable, Block.reset, hp, hb hp])

theorem StepEffect.tabled {p : Params} {inbox : List Input} {b b' : Block} (h : StepEffect p inbox b b')
    (hb : b.phase = .transmitting → b.life = .initialized) : Tabled b b' := by
  cases h with
  | same => exact .inl rfl
  | host _ _ _ heff => exact heff.tabled
  | answer _ _ heff => exact heff.tabled hb
  | reset => exact tabled_reset hb

/-- No operation ends an attempt (R278). -/
theorem ExecEffect.phase_of_transmitting {p : Params} {i : Instr} {b b' : Block} (h : ExecEffect p i b b')
    (hp : b.phase = .transmitting) : b'.phase = .transmitting := by
  cases h with
  | issued => rfl
  | layoutWritten _ _ hw => rw [hw.frame]; exact hp
  | _ => exact hp

/-- An answer that changes the phase is one the attempt waits for (R206). -/
theorem AnswerEffect.mem_pend {k : Nat} {a : Answer} {b b' : Block} (h : AnswerEffect k a b b')
    (hp : b'.phase ≠ b.phase) : k ∈ b.pend := by
  cases h with
  | ignored => exact absurd rfl hp
  | noted _ hk => exact hk
  | failed _ hk => exact hk
  | succeeded _ _ hk => exact hk

/-- An attempt ends by an answer it waits for or by hardware reset. -/
theorem StepEffect.attempt_ends {p : Params} {inbox : List Input} {b b' : Block} (h : StepEffect p inbox b b')
    (hp : b.phase = .transmitting) (hp' : b'.phase = .idle) :
    ∃ e rest, inbox = e :: rest ∧ ((∃ k a, e.ev = .answer k a ∧ k ∈ b.pend) ∨ e.ev = .reset) := by
  cases h with
  | same => exact absurd (hp.symm.trans hp') (by decide)
  | host _ _ _ heff => exact absurd ((heff.phase_of_transmitting hp).symm.trans hp') (by decide)
  | answer hi hev heff =>
    exact ⟨_, _, hi, .inl ⟨_, _, hev, heff.mem_pend (by rw [hp, hp']; decide)⟩⟩
  | reset hi hev => exact ⟨_, _, hi, .inr hev⟩

/-- A step that leaves the block Initialized leaves its layout. -/
theorem StepEffect.sameLayout {p : Params} {inbox : List Input} {b b' : Block} (h : StepEffect p inbox b b')
    (hl : b.life = .initialized) (hl' : b'.life = .initialized) : SameLayout b b' := by
  cases h with
  | same => exact SameLayout.refl b
  | host _ _ _ heff => exact heff.sameLayout hl
  | answer _ _ heff => exact heff.sameLayout
  | reset => exact absurd hl' (by simp [Block.reset])

/-- What an operation does to the dirty flag (R36). -/
theorem ExecEffect.dirty {p : Params} {i : Instr} {b b' : Block} (h : ExecEffect p i b b') :
    b'.dirty = b.dirty ∨
    (b'.dirty = true ∧ (Carries i .markDirty ∨ Carries i .init ∧ b'.resCode = 0)) ∨
    (b'.dirty = false ∧ Carries i .deinit) := by
  cases h with
  | marked hc => exact .inr (.inl ⟨rfl, .inl hc⟩)
  | initialized hc => exact .inr (.inl ⟨rfl, .inr ⟨hc, rfl⟩⟩)
  | released hc => exact .inr (.inr ⟨rfl, hc⟩)
  | layoutWritten _ _ hw => exact .inl (by rw [hw.frame])
  | _ => exact .inl rfl

/-- An answer changes the dirty flag only as it completes an attempt in success (R208). -/
theorem AnswerEffect.dirty {k : Nat} {a : Answer} {b b' : Block} (h : AnswerEffect k a b b') :
    b'.dirty = b.dirty ∨ (b'.dirty = false ∧ b'.resCode = 0 ∧ b'.resTx = true) := by
  cases h with
  | succeeded => exact .inr ⟨rfl, rfl, rfl⟩
  | _ => exact .inl rfl

/-- The input behind a change of the dirty flag (R36). -/
theorem StepEffect.dirty_event {p : Params} {inbox : List Input} {b b' : Block} (h : StepEffect p inbox b b')
    (hne : b'.dirty ≠ b.dirty) :
    ∃ e rest, inbox = e :: rest ∧
      ((b'.dirty = true ∧ ∃ a, e.ev = .host a ∧
          (decodeAccess p.ledcBase a = .instr .markDirty ∨
            decodeAccess p.ledcBase a = .instr .init ∧ b'.resCode = 0)) ∨
       (b'.dirty = false ∧
          ((∃ a, e.ev = .host a ∧ decodeAccess p.ledcBase a = .instr .deinit) ∨ e.ev = .reset ∨
            ∃ k a, e.ev = .answer k a ∧ b'.resCode = 0 ∧ b'.resTx = true))) := by
  cases h with
  | same => exact absurd rfl hne
  | host hi hev hd heff =>
    refine ⟨_, _, hi, ?_⟩
    rcases heff.dirty with h | ⟨ht, hc | ⟨hc, hok⟩⟩ | ⟨hf, hc⟩
    · exact absurd h hne
    · obtain rfl := decodeAccess_carries hd hc
      exact .inl ⟨ht, _, hev, .inl hd⟩
    · obtain rfl := decodeAccess_carries hd hc
      exact .inl ⟨ht, _, hev, .inr ⟨hd, hok⟩⟩
    · obtain rfl := decodeAccess_carries hd hc
      exact .inr ⟨hf, .inl ⟨_, hev, hd⟩⟩
  | answer hi hev heff =>
    rcases heff.dirty with h | ⟨hf, hok, htx⟩
    · exact absurd h hne
    · exact ⟨_, _, hi, .inr ⟨hf, .inr (.inr ⟨_, _, hev, hok, htx⟩)⟩⟩
  | reset hi hev => exact ⟨_, _, hi, .inr ⟨rfl, .inr (.inl hev)⟩⟩

end Sys2Proof.Machine
end

section
/-! SUPPORT. A list of pixel counts cut at a flat index: `unflat` finds the cut that `flat` came from (10_state.md R67,
R68). -/

namespace Sys2Proof.Machine

/-- Past the first entry the search goes on in the rest. -/
theorem unflatIn_cons_add (m : Nat) (l : List Nat) (s i : Nat) :
    unflatIn (m :: l) s (m + i) = unflatIn l (s + 1) i := by
  rw [unflatIn, if_neg (by omega), Nat.add_sub_cancel_left]

/-- A local index within entry `k` lies below the sum of all entries, and is found again. -/
theorem unflatIn_sum_take {l : List Nat} {k j n : Nat} (s : Nat) (hk : l[k]? = some n) (hj : j < n) :
    (l.take k).sum + j < l.sum ∧ unflatIn l s ((l.take k).sum + j) = some (s + k, j) := by
  induction l generalizing s k with
  | nil => simp at hk
  | cons m l ih =>
    cases k with
    | zero =>
      obtain rfl : m = n := by simpa using hk
      exact ⟨by rw [List.take_zero, List.sum_nil, List.sum_cons]; omega, by simp [unflatIn, hj]⟩
    | succ k =>
      obtain ⟨hlt, hfound⟩ := ih (s + 1) (by simpa using hk)
      rw [List.take_succ_cons, List.sum_cons, List.sum_cons, Nat.add_assoc, unflatIn_cons_add, hfound]
      exact ⟨by omega, by congr 2; omega⟩

/-- Every index below the sum is a local index within some entry. -/
theorem exists_sum_take_of_lt_sum {l : List Nat} {i : Nat} (h : i < l.sum) :
    ∃ k j n, l[k]? = some n ∧ j < n ∧ (l.take k).sum + j = i := by
  induction l generalizing i with
  | nil => simp at h
  | cons m l ih =>
    by_cases hi : i < m
    · exact ⟨0, i, m, rfl, hi, by simp⟩
    · obtain ⟨k, j, n, hk, hj, hsum⟩ := ih (i := i - m) (by rw [List.sum_cons] at h; omega)
      exact ⟨k + 1, j, n, hk, hj, by rw [List.take_succ_cons, List.sum_cons]; omega⟩

/-- An index from the sum on is out of range. -/
theorem unflatIn_eq_none {l : List Nat} {i : Nat} (s : Nat) (h : l.sum ≤ i) : unflatIn l s i = none := by
  induction l generalizing s i with
  | nil => rfl
  | cons m l ih =>
    rw [List.sum_cons] at h
    rw [unflatIn, if_neg (by omega)]
    exact ih _ (by omega)

/-- The pixel counts of the layout's strips, in order. -/
def pixelCounts (b : Block) : List Nat := (List.range b.stripCount.toNat).map (pixelsOf b)

theorem sum_pixelCounts (b : Block) : (pixelCounts b).sum = totalOf b := rfl

theorem unflat_eq (b : Block) (i : Nat) : unflat b i = unflatIn (pixelCounts b) 0 i := rfl

theorem pixelCounts_getElem? {b : Block} {k n : Nat} :
    (pixelCounts b)[k]? = some n ↔ k < b.stripCount.toNat ∧ pixelsOf b k = n := by
  simp [pixelCounts, List.getElem?_eq_some_iff]

theorem sum_take_pixelCounts {b : Block} {k : Nat} (h : k < b.stripCount.toNat) :
    ((pixelCounts b).take k).sum = baseOf b k := by
  rw [pixelCounts, ← List.map_take, List.take_range, min_eq_left h.le, baseOf]

/-- A pixel of a strip: its flat index is in range, and `unflat` gives the pixel back (R68). -/
theorem unflat_flat {b : Block} {k j : Nat} (hk : k < b.stripCount.toNat) (hj : j < pixelsOf b k) :
    flat b k j < totalOf b ∧ unflat b (flat b k j) = some (k, j) := by
  have h := unflatIn_sum_take 0 (pixelCounts_getElem?.2 ⟨hk, rfl⟩) hj
  rwa [sum_take_pixelCounts hk, Nat.zero_add] at h

/-- An index in range is some pixel's (R68). -/
theorem exists_flat_of_lt {b : Block} {i : Nat} (h : i < totalOf b) :
    ∃ k j, k < b.stripCount.toNat ∧ j < pixelsOf b k ∧ flat b k j = i := by
  obtain ⟨k, j, n, hkn, hj, hsum⟩ := exists_sum_take_of_lt_sum (l := pixelCounts b) h
  obtain ⟨hk, rfl⟩ := pixelCounts_getElem?.1 hkn
  rw [sum_take_pixelCounts hk] at hsum
  exact ⟨k, j, hk, hj, hsum⟩

end Sys2Proof.Machine
end

section
/-! SUPPORT. What a write does at the register its offset names (10_state.md R40, R65, R66, 42_register_access.md
R252). -/

namespace Sys2Proof.Machine

theorem writeLayout_of_initialized {s : State} (h : s.blk.life = .initialized) (f : Block → Block) :
    writeLayout f s = s := if_pos h

theorem writeLayout_of_uninitialized {s : State} (h : s.blk.life = .uninitialized) (f : Block → Block) :
    writeLayout f s = { s with blk := f s.blk } := if_neg (by simp [h])

theorem writeTargetFps_of_zero {v : Word} (h : field16 v = 0) (s : State) : writeTargetFps v s = s :=
  if_neg (not_not.2 h)

theorem writeTargetFps_of_ne_zero {v : Word} (h : field16 v ≠ 0) (s : State) :
    writeTargetFps v s = { s with blk := { s.blk with targetFps := field16 v } } := if_pos h

/-- A write at a named register's offset writes that register. -/
theorem regWrite_named {off : BitVec 12} {s : State} {o : Nat} {r : Reg} (ho : off.toNat = o) (h4 : o % 4 = 0)
    (h8 : o ≠ 8) (hr : regOf s.cfg.maxStrips o = r) (v : Word) :
    exec (.regWrite off v) s = .next (writeReg r v s) := by
  subst ho hr
  exact regWrite_slot v s ((wordSlot_iff off).2 h4) h8

/-- A write of CMD runs the command its word carries (R180). -/
theorem regWrite_cmd (v : Word) (s : State) : exec (.regWrite 0x008 v) s = exec (decodeCommand v).toInstr s :=
  (exec_toInstr _ _).symm

theorem regWrite_stripPixels {s : State} {k : Nat} (hk : k < s.cfg.maxStrips) (hm : s.cfg.maxStrips ≤ 16) (v : Word) :
    exec (.regWrite (BitVec.ofNat 12 (0x100 + 8 * k)) v) s =
      .next (writeLayout (fun b => { b with stripPixels := b.stripPixels.set k (field16 v) }) s) :=
  regWrite_named (by rw [BitVec.toNat_ofNat]; omega) (by omega) (by omega) (regOf_stripPixels _ k hk hm) v

theorem regWrite_stripOutput {s : State} {k : Nat} (hk : k < s.cfg.maxStrips) (hm : s.cfg.maxStrips ≤ 16) (v : Word) :
    exec (.regWrite (BitVec.ofNat 12 (0x104 + 8 * k)) v) s =
      .next (writeLayout (fun b => { b with stripOutput := b.stripOutput.set k (field8 v) }) s) :=
  regWrite_named (by rw [BitVec.toNat_ofNat]; omega) (by omega) (by omega) (regOf_stripOutput _ k hk hm) v

theorem regWrite_stripCount (v : Word) (s : State) :
    exec (.regWrite 0x020 v) s = .next (writeLayout (fun b => { b with stripCount := field8 v }) s) :=
  regWrite_named rfl rfl (by decide) rfl v

theorem regWrite_initFlags (v : Word) (s : State) :
    exec (.regWrite 0x024 v) s = .next (writeLayout (fun b => { b with initFlags := fieldFlags v }) s) :=
  regWrite_named rfl rfl (by decide) rfl v

theorem regWrite_targetFps (v : Word) (s : State) : exec (.regWrite 0x014 v) s = .next (writeTargetFps v s) :=
  regWrite_named rfl rfl (by decide) rfl v

theorem regWrite_encColor (v : Word) (s : State) : exec (.regWrite 0x028 v) s = .next (writeEncColor v s) :=
  regWrite_named rfl rfl (by decide) rfl v

/-- The slot `regOf` gives a register is the register's own. -/
theorem offset_of_regOf_eq {m o : Nat} {r : Reg} (h4 : o % 4 = 0) (hr : regOf m o = r) (hne : r ≠ .reserved) :
    r.offset = o := by
  subst hr
  exact (regOf_cases m o h4).resolve_left hne

/-- Every slot but those of the writable registers ignores a write (R65, R97). -/
theorem writeReg_ignored {m o : Nat} (h4 : o % 4 = 0) (hw : o ∉ [0x008, 0x014, 0x020, 0x024, 0x028])
    (hs : o < 0x100 ∨ 0x100 + 8 * m ≤ o) (v : Word) (s : State) : writeReg (regOf m o) v s = s := by
  simp only [List.mem_cons, List.not_mem_nil, or_false, not_or] at hw
  have noStrip : ∀ r : Reg, 0x100 ≤ r.offset → regOf m o ≠ r := by
    intro r hr heq
    have hne : r ≠ .reserved := by rintro rfl; simp [Reg.offset] at hr
    have ho := offset_of_regOf_eq h4 heq hne
    exact hne (heq.symm.trans (regOf_reserved m o h4 (.inr (by omega))))
  have noSlot : ∀ r : Reg, r ≠ .reserved → r.offset ≠ o → regOf m o ≠ r :=
    fun r hne ho heq => ho (offset_of_regOf_eq h4 heq hne)
  rcases writeReg_cases (regOf m o) v s with h | ⟨hr, _⟩ | ⟨hr, _⟩ | ⟨_, ⟨hr, _⟩ | ⟨hr, _⟩ | ⟨k, hr, _⟩ | ⟨k, hr, _⟩⟩
  · exact h
  · exact absurd hr (noSlot _ (by simp) (by simp only [Reg.offset]; omega))
  · exact absurd hr (noSlot _ (by simp) (by simp only [Reg.offset]; omega))
  · exact absurd hr (noSlot _ (by simp) (by simp only [Reg.offset]; omega))
  · exact absurd hr (noSlot _ (by simp) (by simp only [Reg.offset]; omega))
  · exact absurd hr (noStrip _ (by simp [Reg.offset]))
  · exact absurd hr (noStrip _ (by simp only [Reg.offset]; omega))

end Sys2Proof.Machine
end

section
/-! The statements of 10_state.md. -/

namespace Sys2Proof.Proofs

open Sys2Proof.Machine Sys2Proof.Safety

/-- Settles O46: the block after a step is one of the step's effects on it, and each keeps the relations. -/
theorem everyStepKeepsTheBlockInvariant : Obligations.EveryStepKeepsTheBlockInvariant := by
  unfold Obligations.EveryStepKeepsTheBlockInvariant
  rintro s t ⟨_, _, hfps, _⟩ hb hs
  obtain ⟨hcfg, heff⟩ := step_effect hs
  rw [hcfg]
  exact hb.step hfps heff

/-- Settles O37: a reset input leaves the block's reset values, and hands out nothing. -/
theorem hardwareResetSetsEveryElement : Obligations.HardwareResetSetsEveryElement := by
  unfold Obligations.HardwareResetSetsEveryElement
  refine fun p => ⟨?_, rfl⟩
  rintro s dt d rest rfl hi
  exact ⟨_, step_cons hi, rfl, rfl, rfl⟩

/-- Settles O50, invariant by invariant. -/
theorem resetHasTheInvariants : Obligations.ResetHasTheInvariants := by
  unfold Obligations.ResetHasTheInvariants
  rintro p ⟨_, _, hfps, _⟩
  exact ⟨BlockInv.reset hfps, StatsInv.reset, flightInv_resetWith p, resetWith_fb_wf p⟩

/-- Settles O52: no effect but a reset's, which ends the lifecycle state, writes the layout of an Initialized block. -/
theorem layoutIsLockedWhileInitialized : Obligations.LayoutIsLockedWhileInitialized := by
  unfold Obligations.LayoutIsLockedWhileInitialized
  intro s t hs hl hl'
  exact (step_effect hs).2.sameLayout hl hl'

/-- Settles O53: every effect follows the table, and only two of them end an attempt. -/
theorem onlyTheTableOfLifecycleTransitions : Obligations.OnlyTheTableOfLifecycleTransitions := by
  unfold Obligations.OnlyTheTableOfLifecycleTransitions
  intro s t hb hs
  obtain ⟨-, heff⟩ := step_effect hs
  have htab := heff.tabled hb.busyInitialized
  exact ⟨htab, htab.reachable hb.busyInitialized, heff.attempt_ends⟩

/-- Settles O55: what each effect does to the flag, and that a host access that carries a command is that command. -/
theorem onlyTheNamedEventsChangeTheDirtyFlag : Obligations.OnlyTheNamedEventsChangeTheDirtyFlag := by
  unfold Obligations.OnlyTheNamedEventsChangeTheDirtyFlag
  intro s t hs hne
  obtain ⟨-, heff⟩ := step_effect hs
  exact heff.dirty_event hne

/-- Settles O23: an index in range is a pixel's, and `unflat` gives a pixel's index back. -/
theorem flatAndUnflatAreInverse : Obligations.FlatAndUnflatAreInverse := by
  unfold Obligations.FlatAndUnflatAreInverse
  refine fun b => ⟨fun k j hk hj => unflat_flat hk hj, fun i hi => ?_, fun i hi => unflatIn_eq_none 0 hi⟩
  obtain ⟨k, j, hk, hj, rfl⟩ := exists_flat_of_lt hi
  exact ⟨k, j, (unflat_flat hk hj).2, hk, hj, rfl⟩

/-- Settles O25, slot by slot: the register the offset names, then what a write does to it. -/
theorem regWriteWritesTheField : Obligations.RegWriteWritesTheField := by
  unfold Obligations.RegWriteWritesTheField
  rintro s v ⟨⟨_, hm⟩, _⟩
  refine ⟨regWrite_cmd v s, fun h0 => ?_, fun h0 => ?_, regWrite_encColor v s, fun hl => ?_, fun hl => ?_,
    fun off h4 hw hs => ?_⟩
  · exact (regWrite_targetFps v s).trans (congrArg _ (writeTargetFps_of_zero h0 s))
  · exact (regWrite_targetFps v s).trans (congrArg _ (writeTargetFps_of_ne_zero h0 s))
  · have written := writeLayout_of_uninitialized hl
    exact ⟨(regWrite_stripCount v s).trans (congrArg _ (written _)),
      (regWrite_initFlags v s).trans (congrArg _ (written _)), fun k hk =>
      ⟨(regWrite_stripPixels hk hm v).trans (congrArg _ (written _)),
        (regWrite_stripOutput hk hm v).trans (congrArg _ (written _))⟩⟩
  · have locked := writeLayout_of_initialized hl
    exact ⟨(regWrite_stripCount v s).trans (congrArg _ (locked _)),
      (regWrite_initFlags v s).trans (congrArg _ (locked _)), fun k hk =>
      ⟨(regWrite_stripPixels hk hm v).trans (congrArg _ (locked _)),
        (regWrite_stripOutput hk hm v).trans (congrArg _ (locked _))⟩⟩
  · have h8 : off.toNat ≠ 8 := fun h => hw (by simp [h])
    rw [regWrite_slot v s ((wordSlot_iff off).2 h4) h8, writeReg_ignored h4 hw hs]

/-- Settles O16: the environment by `execCommand_env`, and, outcome by outcome of a command, the elements of the tuple
it leaves. -/
theorem commandFrame : Obligations.CommandFrame := by
  unfold Obligations.CommandFrame
  intro i s t hi h
  obtain ⟨c, rfl⟩ := exists_toInstr hi
  rw [exec_toInstr] at h
  have henv := execCommand_env h
  have hfb : ∀ k, t.env.fb.read k = s.env.fb.read k := by rw [henv]; exact fun _ => rfl
  rcases execCommand_next h with ⟨_, _, _, rfl⟩ | ⟨rfl, _, _, _, rfl | rfl | rfl⟩ | ⟨rfl, _, _, rfl⟩ |
    ⟨_, ⟨rfl, _⟩ | ⟨rfl, _⟩, _, _, rfl⟩ | ⟨rfl, _, rfl⟩ | ⟨rfl, _, rfl⟩
  all_goals
    refine ⟨⟨rfl, henv, hfb⟩, ?_⟩
    simp [Command.toInstr]

end Sys2Proof.Proofs
end

section
/-! SUPPORT. The decoder against the encoder: a command word is one of the table's seven or an illegal one, an access of
the window is given back by its offset, and the lanes of a word make it up (20_memory.md R93, R94, R96, 30_encoding.md
R120 to R122, R127). -/

namespace Sys2Proof.Machine

/-- The legal opcodes with their commands (R122). -/
def commandTable : List (BitVec 4 × Command) :=
  [(Opcode.nop, .nop), (Opcode.init, .init), (Opcode.deinit, .deinit), (Opcode.showFrame, .showFrame),
    (Opcode.showSynced, .showSynced), (Opcode.markDirty, .markDirty), (Opcode.resetStats, .resetStats)]

/-- A word whose reserved bits are 0 is its opcode's command word (R120). -/
theorem eq_commandWord_of_rsvd_zero {w : Word} (h : w.extractLsb' 4 28 = 0) : w = commandWord (w.extractLsb' 0 4) := by
  have happ : w.extractLsb' 4 28 ++ w.extractLsb' 0 4 = w.extractLsb' 0 32 :=
    BitVec.extractLsb'_append_extractLsb'_eq_extractLsb' (by decide)
  rw [commandWord, ← h, happ, BitVec.extractLsb'_eq_self]

/-- Every word is illegal and kept, or the word of a legal opcode (R121). -/
theorem decodeCommand_cases (w : Word) :
    (illegalWord w = true ∧ decodeCommand w = .illegal w) ∨
    ∃ op, w = commandWord op ∧ (op, decodeCommand w) ∈ commandTable := by
  by_cases h : w.extractLsb' 4 28 = 0
  · have opcodes : ∀ op, (illegalWord (commandWord op) = true ∧
        decodeCommand (commandWord op) = .illegal (commandWord op)) ∨
        (op, decodeCommand (commandWord op)) ∈ commandTable := by decide
    have hw := eq_commandWord_of_rsvd_zero h
    rcases opcodes (w.extractLsb' 0 4) with hill | htab
    · exact .inl (by rwa [← hw] at hill)
    · exact .inr ⟨_, hw, by rwa [← hw] at htab⟩
  · exact .inl ⟨by rw [illegalWord, bne_iff_ne.2 h, Bool.true_or], if_pos h⟩

/-- The table's commands are encoded as the words of their opcodes. -/
theorem encode_of_mem_commandTable {op : BitVec 4} {c : Command} (h : (op, c) ∈ commandTable) (base : Nat) :
    c.toInstr.wf = true ∧ encode base c.toInstr = some (cmdWrite base (commandWord op)) := by
  simp only [commandTable, List.mem_cons, List.not_mem_nil, or_false, Prod.mk.injEq] at h
  rcases h with ⟨rfl, rfl⟩ | ⟨rfl, rfl⟩ | ⟨rfl, rfl⟩ | ⟨rfl, rfl⟩ | ⟨rfl, rfl⟩ | ⟨rfl, rfl⟩ | ⟨rfl, rfl⟩
  all_goals exact ⟨rfl, rfl⟩

/-- The operation a command word decodes to is well formed, and its encoding is the write of that word. -/
theorem encode_decodeCommand (base : Nat) (w : Word) :
    (decodeCommand w).toInstr.wf = true ∧ encode base (decodeCommand w).toInstr = some (cmdWrite base w) := by
  rcases decodeCommand_cases w with ⟨hill, hdec⟩ | ⟨op, hw, htab⟩
  · rw [hdec]
    exact ⟨hill, rfl⟩
  · obtain ⟨hwf, henc⟩ := encode_of_mem_commandTable htab base
    exact ⟨hwf, by rw [henc, ← hw]⟩

/-- An address of the window is the base and its offset (R93). -/
theorem add_offsetOf {base addr : Nat} (h : inWindow base addr = true) : base + (offsetOf base addr).toNat = addr := by
  simp only [inWindow, Bool.and_eq_true, decide_eq_true_eq] at h
  rw [offsetOf, BitVec.toNat_ofNat]
  omega

theorem wordAccess_iff {base addr size : Nat} :
    wordAccess base addr size = true ↔ size = 4 ∧ wordSlot (offsetOf base addr) = true := by
  simp [wordAccess]

/-- Every read that decodes to an operation: an aligned word of the window, and the operation is `REG_READ` (R96). -/
theorem decodeAccess_read {base addr size : Nat} {i : Instr} (h : decodeAccess base (.read addr size) = .instr i) :
    inWindow base addr = true ∧ size = 4 ∧ wordSlot (offsetOf base addr) = true ∧
      i = .regRead (offsetOf base addr) := by
  simp only [decodeAccess] at h
  split_ifs at h with hwin hword
  obtain ⟨hsize, hslot⟩ := wordAccess_iff.1 (by simpa using hword)
  cases h
  exact ⟨by simpa using hwin, hsize, hslot, rfl⟩

/-- Every write that decodes to an operation: an aligned word of the window, and the operation is the command it carries
or `REG_WRITE` (R96, R120). -/
theorem decodeAccess_write {base addr size : Nat} {v : Word} {i : Instr}
    (h : decodeAccess base (.write addr size v) = .instr i) :
    inWindow base addr = true ∧ size = 4 ∧ wordSlot (offsetOf base addr) = true ∧
      ((offsetOf base addr).toNat = Reg.cmd.offset ∧ i = (decodeCommand v).toInstr ∨
       (offsetOf base addr).toNat ≠ Reg.cmd.offset ∧ i = .regWrite (offsetOf base addr) v) := by
  simp only [decodeAccess] at h
  split_ifs at h with hwin hword hcmd
  all_goals
    obtain ⟨hsize, hslot⟩ := wordAccess_iff.1 (by simpa using hword)
    cases h
  · exact ⟨by simpa using hwin, hsize, hslot, .inl ⟨hcmd, rfl⟩⟩
  · exact ⟨by simpa using hwin, hsize, hslot, .inr ⟨hcmd, rfl⟩⟩

/-- The lanes of a word, the highest first, are the word (R94). -/
theorem append_byteLanes (w : Word) : byteLane w 3 ++ byteLane w 2 ++ byteLane w 1 ++ byteLane w 0 = w := by
  have high : byteLane w 3 ++ byteLane w 2 = w.extractLsb' 16 16 :=
    BitVec.extractLsb'_append_extractLsb'_eq_extractLsb' (by decide)
  have upper : w.extractLsb' 16 16 ++ byteLane w 1 = w.extractLsb' 8 24 :=
    BitVec.extractLsb'_append_extractLsb'_eq_extractLsb' (by decide)
  have whole : w.extractLsb' 8 24 ++ byteLane w 0 = w.extractLsb' 0 32 :=
    BitVec.extractLsb'_append_extractLsb'_eq_extractLsb' (by decide)
  rw [high, upper, whole, BitVec.extractLsb'_eq_self]

/-- Only four bytes are a command word (R126). -/
theorem decodeBytes_of_length_ne : ∀ {l : List Byte}, l.length ≠ 4 → decodeBytes l = none
  | [], _ => rfl
  | [_], _ => rfl
  | [_, _], _ => rfl
  | [_, _, _], _ => rfl
  | [_, _, _, _], h => absurd rfl h
  | _ :: _ :: _ :: _ :: _ :: _, _ => rfl

end Sys2Proof.Machine
end

section
/-! SUPPORT. The front buffer read after a write, a swap, and what the agents' events leave of the environment
(20_memory.md R92, R98, R102, 41_scheduler.md R205, R210). -/

namespace Sys2Proof.Machine

/-- A write leaves every other index, in any list. -/
theorem Memory.read_write_of_ne {i k : Nat} (h : k ≠ i) (m : Memory) (c : Color) : (m.write i c).read k = m.read k := by
  have hik : i ≠ k := h.symm
  induction m with
  | nil =>
    simp only [Memory.write]
    split_ifs
    · rfl
    · simp [Memory.read, hik]
  | cons e m ih =>
    obtain ⟨n, d⟩ := e
    simp only [Memory.write]
    split_ifs with hlt hc heq hc
    · rfl
    · simp [Memory.read, hik]
    · simp [Memory.read, ← heq, hik]
    · simp [Memory.read, ← heq, hik]
    · simp [Memory.read, ih]

/-- An index below all the listed ones is unlisted. -/
theorem Memory.read_of_forall_lt {m : Memory} {i : Nat} (h : ∀ e ∈ m, i < e.1) : m.read i = Memory.unlisted := by
  induction m with
  | nil => rfl
  | cons e m ih =>
    obtain ⟨hlt, hrest⟩ := List.forall_mem_cons.1 h
    rw [Memory.read, if_neg hlt.ne', ih hrest]

/-- The index written reads as the colour written, in a canonical list. -/
theorem Memory.read_write_self {m : Memory} (h : m.wf) (i : Nat) (c : Color) : (m.write i c).read i = c := by
  induction m with
  | nil =>
    simp only [Memory.write]
    split_ifs with hc
    · exact hc.symm
    · simp [Memory.read]
  | cons e m ih =>
    obtain ⟨n, d⟩ := e
    obtain ⟨hbelow, -, hm⟩ := (Memory.wf_cons _ _).1 h
    simp only [Memory.write]
    split_ifs with hlt hc heq hc
    · rw [hc]
      exact Memory.read_of_forall_lt (List.forall_mem_cons.2 ⟨hlt, fun f hf => hlt.trans (hbelow f hf)⟩)
    · simp [Memory.read]
    · subst heq
      rw [hc]
      exact Memory.read_of_forall_lt hbelow
    · simp [Memory.read]
    · rw [Memory.read, if_neg (Ne.symm heq), ih hm]

/-- Read after write (R98). -/
theorem Memory.read_write {m : Memory} (h : m.wf) (i k : Nat) (c : Color) :
    (m.write i c).read k = if k = i then c else m.read k := by
  split_ifs with hk
  · rw [hk, Memory.read_write_self h]
  · exact Memory.read_write_of_ne hk m c

theorem Memory.ofList_append_singleton (buf : List (Nat × Color)) (e : Nat × Color) :
    Memory.ofList (buf ++ [e]) = (Memory.ofList buf).write e.1 e.2 := by
  simp [Memory.ofList]

/-- A buffer swapped in reads as its last entry for the index (R320). -/
theorem Memory.read_ofList (buf : List (Nat × Color)) (k : Nat) :
    (Memory.ofList buf).read k = ((buf.reverse.find? fun e => e.1 == k).map Prod.snd).getD Memory.unlisted := by
  induction buf using List.reverseRecOn with
  | nil => rfl
  | append_singleton buf e ih =>
    rw [Memory.ofList_append_singleton, Memory.read_write (Memory.ofList_wf buf), List.reverse_append,
      List.reverse_singleton, List.singleton_append, List.find?_cons]
    by_cases hk : k = e.1
    · simp [hk]
    · have hke : (e.1 == k) = false := by simpa using Ne.symm hk
      rw [if_neg hk, hke, ih]

/-- A paint writes its pixel and races with the requests in flight; the rest of the environment stays (R102). -/
theorem paint_env (i : Nat) (c : Color) (s : State) :
    (paint i c s).env = { s.env with fb := s.env.fb.write i c, sent := (paint i c s).env.sent } :=
  (race_frame _ _).2.2.1

/-- A swap sets the front buffer and races with the requests in flight; the rest of the environment stays (R320). -/
theorem swapBuffers_env (buf : List (Nat × Color)) (s : State) :
    (swapBuffers buf s).env = { s.env with fb := Memory.ofList buf, sent := (swapBuffers buf s).env.sent } :=
  (race_frame _ _).2.2.1

/-- Outside an attempt a paint has nothing to race with. -/
theorem paint_of_idle {s : State} (h : s.blk.phase = .idle) (i : Nat) (c : Color) :
    paint i c s = setFront (s.env.fb.write i c) s :=
  (race_frame _ _).2.2.2 h

theorem swapBuffers_of_idle {s : State} (h : s.blk.phase = .idle) (buf : List (Nat × Color)) :
    swapBuffers buf s = setFront (Memory.ofList buf) s :=
  (race_frame _ _).2.2.2 h

/-- No operation writes the front buffer (R210). -/
theorem exec_fb {i : Instr} {s t : State} (h : exec i s = .next t) : t.env.fb = s.env.fb := by
  rw [exec_env h]

/-- An event that changes a pixel is a paint of it or a swap (R92). -/
theorem runEvent_pixel {ev : Event} {s t : State} {k : Nat} (h : runEvent ev s = .next t)
    (hne : t.env.fb.read k ≠ s.env.fb.read k) : (∃ c, ev = .paint k c) ∨ ∃ buf, ev = .swap buf := by
  cases ev with
  | host a =>
    rcases hostAccess_cases h with ⟨i, _, hi⟩ | ⟨_, rfl⟩
    · exact absurd (by rw [exec_fb hi]) hne
    · exact absurd rfl hne
  | answer strip a => cases h; exact absurd (by rw [answer_env]) hne
  | reset => cases h; exact absurd rfl hne
  | paint i c =>
    cases h
    by_cases hk : k = i
    · exact .inl ⟨c, by rw [hk]⟩
    · exact absurd (by rw [paint_env]; exact Memory.read_write_of_ne hk _ c) hne
  | swap buf => exact .inr ⟨buf, rfl⟩
  | pipeline p => cases h; exact absurd rfl hne

end Sys2Proof.Machine
end

section
/-! SUPPORT. A register written twice, an offset that is no word slot, and a host access run by the step (20_memory.md
R93, R96, R97, R100). -/

namespace Sys2Proof.Machine

theorem writeTargetFps_idem (v : Word) (s : State) : writeTargetFps v (writeTargetFps v s) = writeTargetFps v s := by
  by_cases h : field16 v = 0
  · rw [writeTargetFps_of_zero h s, writeTargetFps_of_zero h s]
  · rw [writeTargetFps_of_ne_zero h s, writeTargetFps_of_ne_zero h]

/-- An idempotent write of the layout that leaves the lifecycle state is idempotent under the lock (R66). -/
theorem writeLayout_idem {f : Block → Block} (hf : ∀ b, f (f b) = f b) (hlife : ∀ b, (f b).life = b.life) (s : State) :
    writeLayout f (writeLayout f s) = writeLayout f s := by
  rcases writeLayout_cases f s with ⟨_, h⟩ | ⟨hl, h⟩
  · rw [h, h]
  · rw [h, writeLayout_of_uninitialized ((hlife s.blk).trans hl), hf]

/-- The same write again changes nothing (R97). -/
theorem writeReg_idem (r : Reg) (v : Word) (s : State) : writeReg r v (writeReg r v s) = writeReg r v s := by
  cases r with
  | targetFps => exact writeTargetFps_idem v s
  | stripCount =>
    exact writeLayout_idem (f := fun b => { b with stripCount := field8 v }) (fun _ => rfl) (fun _ => rfl) s
  | initFlags =>
    exact writeLayout_idem (f := fun b => { b with initFlags := fieldFlags v }) (fun _ => rfl) (fun _ => rfl) s
  | stripPixels k =>
    exact writeLayout_idem (f := fun b => { b with stripPixels := b.stripPixels.set k (field16 v) })
      (fun b => by simp) (fun _ => rfl) s
  | stripOutput k =>
    exact writeLayout_idem (f := fun b => { b with stripOutput := b.stripOutput.set k (field8 v) })
      (fun b => by simp) (fun _ => rfl) s
  | _ => rfl

/-- A write at an offset that is no word slot is a bus error (R252). -/
theorem execRegWrite_misaligned {off : BitVec 12} (h4 : off.toNat % 4 ≠ 0) (v : Word) (s : State) :
    execRegWrite off v s = misaligned off s :=
  if_pos (by simp [wordSlot, h4])

theorem hostAccess_instr {a : Access} {i : Instr} {s : State} (h : decodeAccess s.cfg.ledcBase a = .instr i) :
    hostAccess a s = exec i s := by
  rw [hostAccess, h]

theorem hostAccess_elsewhere {a : Access} {s : State} (h : decodeAccess s.cfg.ledcBase a = .elsewhere) :
    hostAccess a s = .next s := by
  rw [hostAccess, h]

end Sys2Proof.Machine
end

section
/-! SUPPORT. The race of a front-buffer write with an attempt in flight: a raced read replaces the 24 descriptors of one
pixel in one strip's request, so the lists keep their form, and each pixel of a strip is its old or its new colour; the
settings behind them are latched by an issue alone (20_memory.md R98, R102, 41_scheduler.md R204, R205,
70_reset_and_hazards.md R320). -/

namespace Sys2Proof.Machine

open Sys2Proof.Safety

/-- The 24 descriptors of pixel `j` of a strip's list (R204). -/
def pixelDescs (l : List Desc) (j : Nat) : List Desc := (l.drop (24 * j)).take 24

theorem pixelDescs_recolor_self (p : Params) {l : List Desc} {j : Nat} (c : Color) (h : 24 * j ≤ l.length) :
    pixelDescs (recolor p l j c) j = pulses p c := by
  rw [pixelDescs, recolor, List.append_assoc, List.drop_left' (by simpa using h), List.take_left' (pulses_length p c)]

/-- Outside the pixel's 24 descriptors a list stays. -/
theorem recolor_getElem?_of_outside (p : Params) {l : List Desc} {j n : Nat} (c : Color) (h : 24 * j + 24 ≤ l.length)
    (hn : n < 24 * j ∨ 24 * j + 24 ≤ n) : (recolor p l j c)[n]? = l[n]? := by
  have hlen : (l.take (24 * j)).length = 24 * j := by rw [List.length_take]; omega
  have hfront : (l.take (24 * j) ++ pulses p c).length = 24 * j + 24 := by
    rw [List.length_append, hlen, pulses_length]
  rcases hn with hn | hn
  · rw [recolor, List.append_assoc, List.getElem?_append_left (by rwa [hlen]), List.getElem?_take_of_lt hn]
  · rw [recolor, List.getElem?_append_right (by rwa [hfront]), hfront, List.getElem?_drop, Nat.add_sub_cancel' hn]

/-- Another pixel's descriptors stay. -/
theorem pixelDescs_recolor_of_ne (p : Params) {l : List Desc} {j j' : Nat} (c : Color) (h : 24 * j + 24 ≤ l.length)
    (hne : j' ≠ j) : pixelDescs (recolor p l j c) j' = pixelDescs l j' := by
  apply List.ext_getElem?
  intro n
  simp only [pixelDescs, List.getElem?_take, List.getElem?_drop]
  split_ifs with hn
  · exact recolor_getElem?_of_outside p c h (by omega)
  · rfl

/-- The colour of a pixel replaced twice by the same one. -/
theorem recolor_recolor (p : Params) {l : List Desc} {j : Nat} (c : Color) (h : 24 * j ≤ l.length) :
    recolor p (recolor p l j c) j c = recolor p l j c := by
  have hlen : (l.take (24 * j)).length = 24 * j := by simpa using h
  have htake : (recolor p l j c).take (24 * j) = l.take (24 * j) := by
    rw [recolor, List.append_assoc, List.take_left' hlen]
  have hdrop : (recolor p l j c).drop (24 * j + 24) = l.drop (24 * j + 24) :=
    List.drop_left' (by rw [List.length_append, hlen, pulses_length])
  conv_lhs => rw [recolor, htake, hdrop]
  rfl

/-- What follows the pixels, the reset descriptor, stays. -/
theorem recolor_append (p : Params) {l : List Desc} (r : List Desc) {j : Nat} (c : Color)
    (h : 24 * j + 24 ≤ l.length) : recolor p (l ++ r) j c = recolor p l j c ++ r := by
  rw [recolor, List.take_append_of_le_length (by omega), List.drop_append_of_le_length h, ← List.append_assoc, recolor]

/-- The strip and the local index that `unflat` finds are a pixel of the layout (R68). -/
theorem flat_of_unflat {b : Block} {i k j : Nat} (h : unflat b i = some (k, j)) :
    k < b.stripCount.toNat ∧ j < pixelsOf b k ∧ flat b k j = i := by
  by_cases hi : i < totalOf b
  · obtain ⟨k', j', hk, hj, rfl⟩ := exists_flat_of_lt hi
    rw [(unflat_flat hk hj).2] at h
    cases h
    exact ⟨hk, hj, rfl⟩
  · have hnone : unflat b i = none := unflatIn_eq_none 0 (Nat.le_of_not_lt hi)
    rw [hnone] at h
    cases h

/-- A map over the end of a list that changes one element is a `set`. -/
theorem take_append_map_drop_eq_set {α : Type} {f : α → α} {l : List α} {n k : Nat} {r : α} (hr : l[n + k]? = some r)
    (h : ∀ m r', m ≠ k → l[n + m]? = some r' → f r' = r') :
    l.take n ++ (l.drop n).map f = l.set (n + k) (f r) := by
  obtain ⟨hlt, -⟩ := List.getElem?_eq_some_iff.1 hr
  have hmap : (l.drop n).map f = (l.drop n).set k (f r) := by
    apply List.ext_getElem?
    intro m
    rw [List.getElem?_map, List.getElem?_set', List.getElem?_drop]
    split_ifs with hm
    · rw [← hm, hr]
      rfl
    · cases hl : l[n + m]? with
      | none => rfl
      | some r' => rw [Option.map_some, h m r' (Ne.symm hm) hl]
  conv_rhs => rw [← List.take_append_drop n l]
  rw [hmap, List.set_append_right _ _ (by simp)]
  congr 2
  simp
  omega

theorem repaintRequest_tx_of_ne {p : Params} {k m : Nat} (h : m ≠ k) (j : Nat) (c : Color) (id : BitVec 8)
    (l : List Desc) : repaintRequest p k j c (.tx m id l) = .tx m id l := by
  simp [repaintRequest, h]

theorem repaint_of_unflat_none {s : State} {i : Nat} (h : unflat s.blk i = none) : repaint i s = s := by
  rw [repaint, h]

end Sys2Proof.Machine
end

section
/-! SUPPORT. What a raced read does to the requests of an attempt in flight (41_scheduler.md R200, R204, R205). -/

namespace Sys2Proof.Safety

open Sys2Proof.Machine

/-- The request of a strip of the attempt in flight (R200, R204). -/
theorem FlightInv.request {s : State} (h : FlightInv s) (hp : s.blk.phase = .transmitting) {k : Nat}
    (hk : k < s.blk.stripCount.toNat) :
    ∃ l, s.env.sent[s.env.attemptAt + k]? = some (.tx k (outputOf s.blk k) (l ++ [resetPulse s.cfg])) ∧
      l.length = 24 * pixelsOf s.blk k := by
  obtain ⟨_, hr, l, rfl, hl⟩ := (h hp).2 k hk
  exact ⟨l, hr, hl⟩

/-- The list of a strip in flight is its pixels' and the reset descriptor (R204). -/
theorem FlightInv.length_of_request {s : State} (h : FlightInv s) (hp : s.blk.phase = .transmitting) {k : Nat}
    (hk : k < s.blk.stripCount.toNat) {id : BitVec 8} {l : List Desc}
    (hl : s.env.sent[s.env.attemptAt + k]? = some (.tx k id l)) :
    l.length = 24 * pixelsOf s.blk k + 1 ∧ l[24 * pixelsOf s.blk k]? = some (resetPulse s.cfg) := by
  obtain ⟨l', hr, hlen⟩ := h.request hp hk
  rw [hl] at hr
  cases hr
  exact ⟨by simp [hlen], by simp [← hlen]⟩

/-- A raced read replaces one pixel in the one request of its strip (R205). -/
theorem FlightInv.repaint_eq {s : State} (h : FlightInv s) (hp : s.blk.phase = .transmitting) {i k j : Nat}
    (hu : unflat s.blk i = some (k, j)) {id : BitVec 8} {l : List Desc}
    (hl : s.env.sent[s.env.attemptAt + k]? = some (.tx k id l)) :
    repaint i s = { s with env := { s.env with
      sent := s.env.sent.set (s.env.attemptAt + k)
        (.tx k id (recolor s.cfg l j (correct s.env.pipeAtIssue (s.env.fb.read i)))) } } := by
  have others : ∀ m r, m ≠ k → s.env.sent[s.env.attemptAt + m]? = some r →
      repaintRequest s.cfg k j (correct s.env.pipeAtIssue (s.env.fb.read i)) r = r := by
    intro m r hm hr
    obtain ⟨hlt, -⟩ := List.getElem?_eq_some_iff.1 hr
    have hlen := (h hp).1
    obtain ⟨l', hr', -⟩ := h.request hp (k := m) (by omega)
    rw [hr] at hr'
    cases hr'
    exact repaintRequest_tx_of_ne hm _ _ _ _
  have hset := take_append_map_drop_eq_set hl others
  rw [repaint, hu]
  simp only [hset]
  simp [repaintRequest]

/-- A request of its strip's form in place of a strip's request keeps the form of the lists in flight. -/
theorem FlightInv.set_request {s : State} (h : FlightInv s) {k : Nat} {r : Request} (hr : IsStripRequest s k r) :
    FlightInv { s with env := { s.env with sent := s.env.sent.set (s.env.attemptAt + k) r } } := by
  intro hp
  obtain ⟨hlen, hreq⟩ := h hp
  refine ⟨by simpa using hlen, fun m hm => ?_⟩
  obtain ⟨r', hr', hform⟩ := hreq m hm
  by_cases hmk : m = k
  · subst hmk
    exact ⟨r, List.getElem?_set_self (List.getElem?_eq_some_iff.1 hr').1, hr⟩
  · have hne : s.env.attemptAt + k ≠ s.env.attemptAt + m := by omega
    exact ⟨r', (List.getElem?_set_ne hne).trans hr', hform⟩

/-- A raced read keeps the form of the lists in flight. -/
theorem FlightInv.repaint {s : State} (h : FlightInv s) (i : Nat) : FlightInv (Machine.repaint i s) := by
  intro hp
  rw [(repaint_frame i s).2.1] at hp
  cases hu : unflat s.blk i with
  | none => rw [repaint_of_unflat_none hu]; exact h hp
  | some kj =>
    obtain ⟨k, j⟩ := kj
    obtain ⟨hk, hj, -⟩ := flat_of_unflat hu
    obtain ⟨l, hl, hlen⟩ := h.request hp hk
    have hjl : 24 * j + 24 ≤ l.length := by omega
    rw [h.repaint_eq hp hu hl]
    exact h.set_request ⟨_, by rw [recolor_append _ _ _ hjl], by rw [recolor_length _ _ _ _ hjl, hlen]⟩ hp

/-- Reading a pixel anew twice is reading it once. -/
theorem FlightInv.repaint_repaint {s : State} (h : FlightInv s) (hp : s.blk.phase = .transmitting) (i : Nat) :
    Machine.repaint i (Machine.repaint i s) = Machine.repaint i s := by
  cases hu : unflat s.blk i with
  | none => rw [repaint_of_unflat_none hu, repaint_of_unflat_none hu]
  | some kj =>
    obtain ⟨k, j⟩ := kj
    obtain ⟨hk, hj, -⟩ := flat_of_unflat hu
    obtain ⟨l, hl, hlen⟩ := h.request hp hk
    have hlt := (List.getElem?_eq_some_iff.1 hl).1
    have hflight := h.repaint i
    rw [h.repaint_eq hp hu hl] at hflight ⊢
    rw [hflight.repaint_eq hp hu (List.getElem?_set_self hlt), List.set_set,
      recolor_recolor _ _ (by simp only [List.length_append]; omega)]

/-- A pixel named any number of times is read anew once. -/
theorem FlightInv.foldl_repaint_self {s : State} (h : FlightInv s) (hp : s.blk.phase = .transmitting) {i : Nat}
    {is : List Nat} (his : ∀ x ∈ is, x = i) :
    is.foldl (fun t x => Machine.repaint x t) (Machine.repaint i s) = Machine.repaint i s := by
  induction is with
  | nil => rfl
  | cons x is ih =>
    obtain ⟨rfl, hrest⟩ := List.forall_mem_cons.1 his
    rw [List.foldl_cons, h.repaint_repaint hp, ih hrest]

/-- A raced read of one pixel, strip by strip and pixel by pixel: new where the index is, old elsewhere (R205). -/
theorem FlightInv.repaint_pixel {s : State} (h : FlightInv s) (hp : s.blk.phase = .transmitting) {k : Nat}
    (hk : k < s.blk.stripCount.toNat) {id : BitVec 8} {l : List Desc}
    (hl : s.env.sent[s.env.attemptAt + k]? = some (.tx k id l)) (i : Nat) :
    ∃ l', (Machine.repaint i s).env.sent[s.env.attemptAt + k]? = some (.tx k id l') ∧
      ∀ j, j < pixelsOf s.blk k → pixelDescs l' j =
        if flat s.blk k j = i then pulses s.cfg (correct s.env.pipeAtIssue (s.env.fb.read i)) else pixelDescs l j := by
  obtain ⟨hlen, -⟩ := h.length_of_request hp hk hl
  cases hu : unflat s.blk i with
  | none =>
    refine ⟨l, by rw [repaint_of_unflat_none hu, hl], fun j hj => (if_neg fun heq => ?_).symm⟩
    rw [← heq, (unflat_flat hk hj).2] at hu
    cases hu
  | some kj =>
    obtain ⟨k', j'⟩ := kj
    obtain ⟨hk', hj', rfl⟩ := flat_of_unflat hu
    obtain ⟨lk', hlk', -⟩ := h.request hp hk'
    by_cases hkk : k' = k
    · subst hkk
      rw [h.repaint_eq hp hu hl]
      refine ⟨_, List.getElem?_set_self (List.getElem?_eq_some_iff.1 hl).1, fun j hj => ?_⟩
      by_cases hjj : j = j'
      · rw [hjj, if_pos rfl, pixelDescs_recolor_self _ _ (by omega)]
      · have hne : flat s.blk k' j ≠ flat s.blk k' j' := by unfold flat; omega
        rw [if_neg hne, pixelDescs_recolor_of_ne _ _ (by omega) hjj]
    · rw [h.repaint_eq hp hu hlk']
      refine ⟨l, by rw [← hl]; exact List.getElem?_set_ne (by omega), fun j hj => (if_neg fun heq => ?_).symm⟩
      rw [← heq, (unflat_flat hk hj).2] at hu
      cases hu
      exact hkk rfl

/-- Raced reads of several pixels: the form of the lists stays, and each pixel of a strip is new or old as the indices
name it (R205). -/
theorem FlightInv.foldl_repaint {s : State} (h : FlightInv s) (hp : s.blk.phase = .transmitting) (is : List Nat) :
    FlightInv (is.foldl (fun t i => Machine.repaint i t) s) ∧
    ∀ k, k < s.blk.stripCount.toNat → ∀ id l, s.env.sent[s.env.attemptAt + k]? = some (.tx k id l) →
      ∃ l', (is.foldl (fun t i => Machine.repaint i t) s).env.sent[s.env.attemptAt + k]? = some (.tx k id l') ∧
        ∀ j, j < pixelsOf s.blk k → pixelDescs l' j =
          if flat s.blk k j ∈ is then pulses s.cfg (correct s.env.pipeAtIssue (s.env.fb.read (flat s.blk k j)))
          else pixelDescs l j := by
  induction is generalizing s with
  | nil => exact ⟨h, fun k hk id l hl => ⟨l, hl, fun j hj => by simp⟩⟩
  | cons i is ih =>
    obtain ⟨hcfg, hblk, henv⟩ := repaint_frame i s
    have hstep := ih (h.repaint i) (by rw [hblk, hp])
    rw [hcfg, hblk] at hstep
    have hat : (Machine.repaint i s).env.attemptAt = s.env.attemptAt := by rw [henv]
    have hfb : (Machine.repaint i s).env.fb = s.env.fb := by rw [henv]
    have hpipe : (Machine.repaint i s).env.pipeAtIssue = s.env.pipeAtIssue := by rw [henv]
    rw [hat, hfb, hpipe] at hstep
    obtain ⟨hflight, hpixels⟩ := hstep
    refine ⟨hflight, fun k hk id l hl => ?_⟩
    obtain ⟨l₁, hl₁, hfirst⟩ := h.repaint_pixel hp hk hl i
    obtain ⟨l', hl', hrest⟩ := hpixels k hk id l₁ hl₁
    refine ⟨l', hl', fun j hj => ?_⟩
    rw [hrest j hj, hfirst j hj]
    by_cases hmem : flat s.blk k j ∈ is
    · simp [hmem]
    · by_cases heq : flat s.blk k j = i
      · simp [heq]
      · simp [hmem, heq]

end Sys2Proof.Safety
end

section
/-! SUPPORT. A paint and a swap during an attempt, and the issue that latches the pipeline's settings (20_memory.md R98,
R102, 41_scheduler.md R200, R205, 60_exceptions.md R295, 70_reset_and_hazards.md R320). -/

namespace Sys2Proof.Machine

open Sys2Proof.Safety

/-- During an attempt the written indices that the draw names are read anew (R205). -/
theorem race_of_transmitting {s : State} (h : s.blk.phase = .transmitting) (w : Nat → Bool) :
    race w s = (s.env.draw.taken.filter w).foldl (fun t i => repaint i t) s :=
  if_pos h

/-- A pixel painted in flight whose read the draw does not name was read before: the requests stay (R102). -/
theorem paint_sent_of_not_taken {s : State} {i : Nat} (c : Color) (hp : s.blk.phase = .transmitting)
    (h : i ∉ s.env.draw.taken) : (paint i c s).env.sent = s.env.sent := by
  have hnil : s.env.draw.taken.filter (· == i) = [] :=
    List.filter_eq_nil_iff.2 fun x hx hxi => h (eq_of_beq hxi ▸ hx)
  rw [paint, race_of_transmitting (by exact hp)]
  simp [hnil]

/-- A pixel painted in flight whose read the draw names is read as the new colour, in its strip's request (R205). -/
theorem paint_sent_of_taken {s : State} {i k j : Nat} (c : Color) (hf : FlightInv s) (hw : s.env.fb.wf)
    (hp : s.blk.phase = .transmitting) (hu : unflat s.blk i = some (k, j)) {id : BitVec 8} {l : List Desc}
    (hl : s.env.sent[s.env.attemptAt + k]? = some (.tx k id l)) (h : i ∈ s.env.draw.taken) :
    (paint i c s).env.sent = s.env.sent.set (s.env.attemptAt + k)
      (.tx k id (recolor s.cfg l j (correct s.env.pipeAtIssue c))) := by
  have hf' : FlightInv (setFront (s.env.fb.write i c) s) := hf
  have hmem : i ∈ s.env.draw.taken.filter (· == i) := List.mem_filter.2 ⟨h, beq_self_eq_true i⟩
  have hall : ∀ x ∈ s.env.draw.taken.filter (· == i), x = i := fun x hx => eq_of_beq (List.mem_filter.1 hx).2
  obtain ⟨x, is, his⟩ := List.exists_cons_of_ne_nil (List.ne_nil_of_mem hmem)
  rw [his] at hall
  obtain ⟨rfl, hrest⟩ := List.forall_mem_cons.1 hall
  rw [paint, race_of_transmitting (by exact hp), setFront_env, his, List.foldl_cons,
    hf'.foldl_repaint_self hp hrest, hf'.repaint_eq hp hu hl]
  simp [Memory.read_write_self hw]

/-- A swap in flight is the raced reads of all the indices that the draw names (R320). -/
theorem swapBuffers_of_transmitting {s : State} (h : s.blk.phase = .transmitting) (buf : List (Nat × Color)) :
    swapBuffers buf s = s.env.draw.taken.foldl (fun t i => repaint i t) (setFront (Memory.ofList buf) s) := by
  rw [swapBuffers, race_of_transmitting (by exact h), List.filter_true]
  rfl

/-- A raced read leaves the requests before the attempt's, and their number. -/
theorem repaint_earlier (i : Nat) (s : State) (h : s.env.attemptAt ≤ s.env.sent.length) :
    (repaint i s).env.sent.length = s.env.sent.length ∧
    (repaint i s).env.sent.take s.env.attemptAt = s.env.sent.take s.env.attemptAt := by
  cases hu : unflat s.blk i with
  | none => rw [repaint_of_unflat_none hu]; exact ⟨rfl, rfl⟩
  | some kj =>
    rw [repaint, hu]
    exact ⟨by simp; omega, List.take_left' (by simpa using h)⟩

theorem foldl_repaint_earlier (is : List Nat) (s : State) (h : s.env.attemptAt ≤ s.env.sent.length) :
    (is.foldl (fun t i => repaint i t) s).env.sent.length = s.env.sent.length ∧
    (is.foldl (fun t i => repaint i t) s).env.sent.take s.env.attemptAt = s.env.sent.take s.env.attemptAt := by
  induction is generalizing s with
  | nil => exact ⟨rfl, rfl⟩
  | cons i is ih =>
    obtain ⟨hlen, htake⟩ := repaint_earlier i s h
    have hat : (repaint i s).env.attemptAt = s.env.attemptAt := by rw [(repaint_frame i s).2.2]
    obtain ⟨hlen', htake'⟩ := ih (repaint i s) (by rw [hat, hlen]; exact h)
    rw [hat] at htake'
    exact ⟨hlen'.trans hlen, htake'.trans htake⟩

/-- So does a swap in flight. -/
theorem swapBuffers_earlier {s : State} (buf : List (Nat × Color)) (hp : s.blk.phase = .transmitting)
    (h : s.env.attemptAt ≤ s.env.sent.length) :
    (swapBuffers buf s).env.sent.length = s.env.sent.length ∧
    (swapBuffers buf s).env.sent.take s.env.attemptAt = s.env.sent.take s.env.attemptAt := by
  rw [swapBuffers_of_transmitting hp]
  exact foldl_repaint_earlier _ (setFront (Memory.ofList buf) s) h

/-- A swap in flight, strip by strip: each pixel is new or old as the draw says, and the list keeps its length and its last
descriptor (R320). -/
theorem swapBuffers_request {s : State} (buf : List (Nat × Color)) (hf : FlightInv s)
    (hp : s.blk.phase = .transmitting) {k : Nat} (hk : k < s.blk.stripCount.toNat) {id : BitVec 8} {l : List Desc}
    (hl : s.env.sent[s.env.attemptAt + k]? = some (.tx k id l)) :
    ∃ l', (swapBuffers buf s).env.sent[s.env.attemptAt + k]? = some (.tx k id l') ∧ l'.length = l.length ∧
      l'[24 * pixelsOf s.blk k]? = l[24 * pixelsOf s.blk k]? ∧
      ∀ j, j < pixelsOf s.blk k → pixelDescs l' j =
        if flat s.blk k j ∈ s.env.draw.taken
        then pulses s.cfg (correct s.env.pipeAtIssue ((Memory.ofList buf).read (flat s.blk k j)))
        else pixelDescs l j := by
  have hf' : FlightInv (setFront (Memory.ofList buf) s) := hf
  obtain ⟨hflight, hpixels⟩ := hf'.foldl_repaint hp s.env.draw.taken
  obtain ⟨l', hl', hcolors⟩ := hpixels k hk id l hl
  rw [← swapBuffers_of_transmitting hp buf] at hflight hl'
  have hat : (swapBuffers buf s).env.attemptAt = s.env.attemptAt := by rw [swapBuffers_env]
  have hform := hflight.length_of_request (by rw [swapBuffers_blk]; exact hp) (by rw [swapBuffers_blk]; exact hk)
    (by rw [hat]; exact hl')
  rw [swapBuffers_blk, swapBuffers_cfg] at hform
  obtain ⟨hlen', hlast'⟩ := hform
  obtain ⟨hlen, hlast⟩ := hf.length_of_request hp hk hl
  exact ⟨l', hl', hlen'.trans hlen.symm, hlast'.trans hlast.symm, hcolors⟩

/-- A command that changes the latched settings started an attempt and latched those in force (R205). -/
theorem execCommand_latch {c : Command} {s t : State} (h : execCommand c s = .next t)
    (hne : t.env.pipeAtIssue ≠ s.env.pipeAtIssue) :
    (c = .showFrame ∨ c = .showSynced) ∧ t.env.pipeAtIssue = s.env.pipe ∧ s.blk.phase = .idle ∧
      t.blk.phase = .transmitting := by
  rcases execCommand_next h with ⟨_, _, _, rfl⟩ | ⟨_, _, _, _, rfl | rfl | rfl⟩ | ⟨_, _, _, rfl⟩ |
    ⟨_, hop, hp, _, rfl⟩ | ⟨_, _, rfl⟩ | ⟨_, _, rfl⟩
  case inr.inr.inr.inl => exact ⟨hop.imp And.left And.left, rfl, hp, rfl⟩
  all_goals exact absurd rfl hne

/-- So did an operation: `SHOW` or `SHOW_SYNCED`, or a write of CMD that carries it. -/
theorem exec_latch {i : Instr} {s t : State} (h : exec i s = .next t)
    (hne : t.env.pipeAtIssue ≠ s.env.pipeAtIssue) :
    (Carries i .showFrame ∨ Carries i .showSynced) ∧ t.env.pipeAtIssue = s.env.pipe ∧ s.blk.phase = .idle ∧
      t.blk.phase = .transmitting := by
  rcases exec_next h with ⟨c, hi, hc⟩ | ⟨_, _, _, rfl⟩ | ⟨_, rfl⟩ |
    ⟨_, _, _, _, _, rfl | ⟨_, _, rfl⟩ | ⟨_, rfl⟩ | ⟨_, _, _, rfl⟩⟩
  · obtain ⟨rfl | rfl, hlatch⟩ := execCommand_latch hc hne
    · exact ⟨.inl hi, hlatch⟩
    · exact ⟨.inr hi, hlatch⟩
  all_goals exact absurd rfl hne

/-- The event behind a change of the latched settings is a host access that started an attempt. -/
theorem runEvent_latch {ev : Event} {s t : State} (h : runEvent ev s = .next t)
    (hne : t.env.pipeAtIssue ≠ s.env.pipeAtIssue) :
    t.env.pipeAtIssue = s.env.pipe ∧ s.blk.phase = .idle ∧ t.blk.phase = .transmitting ∧
    ∃ a, ev = .host a ∧
      (decodeAccess s.cfg.ledcBase a = .instr .showFrame ∨ decodeAccess s.cfg.ledcBase a = .instr .showSynced) := by
  cases ev with
  | host a =>
    rcases hostAccess_cases h with ⟨i, hd, hi⟩ | ⟨_, rfl⟩
    · obtain ⟨hc, hpipe, hidle, hbusy⟩ := exec_latch hi hne
      refine ⟨hpipe, hidle, hbusy, a, rfl, ?_⟩
      rcases hc with hc | hc
      · exact .inl (hd.trans (congrArg _ (decodeAccess_carries hd hc)))
      · exact .inr (hd.trans (congrArg _ (decodeAccess_carries hd hc)))
    · exact absurd rfl hne
  | answer strip a => cases h; exact absurd (by rw [answer_env]) hne
  | reset => cases h; exact absurd rfl hne
  | paint i c => cases h; exact absurd (by rw [paint_env]) hne
  | swap buf => cases h; exact absurd (by rw [swapBuffers_env]) hne
  | pipeline p => cases h; exact absurd rfl hne

end Sys2Proof.Machine
end

section
/-! The statements of 20_memory.md. -/

namespace Sys2Proof.Proofs

open Sys2Proof.Machine Sys2Proof.Safety

/-- Settles O41: a read gives its offset back, and a write of CMD its command word. -/
theorem encodeOfDecodeIsTheAccess : Obligations.EncodeOfDecodeIsTheAccess := by
  unfold Obligations.EncodeOfDecodeIsTheAccess
  intro base a i h
  cases a with
  | read addr size =>
    obtain ⟨hwin, rfl, hslot, rfl⟩ := decodeAccess_read h
    exact ⟨hslot, by rw [encode, add_offsetOf hwin]⟩
  | write addr size v =>
    obtain ⟨hwin, rfl, hslot, ⟨hcmd, rfl⟩ | ⟨hcmd, rfl⟩⟩ := decodeAccess_write h
    · obtain ⟨hwf, henc⟩ := encode_decodeCommand base v
      exact ⟨hwf, by rw [henc, cmdWrite, ← hcmd, add_offsetOf hwin]⟩
    · exact ⟨by simp [Instr.wf, hslot, hcmd], by rw [encode, add_offsetOf hwin]⟩

/-- Settles O28: a write that goes on is `writeReg` of one register, which is idempotent. -/
theorem registerWritesAreIdempotent : Obligations.RegisterWritesAreIdempotent := by
  unfold Obligations.RegisterWritesAreIdempotent
  intro off v s t h8 h
  obtain ⟨hcfg, -⟩ := exec_effect h
  obtain ⟨hslot, ht⟩ := regWrite_next h8 h
  rw [regWrite_slot v t hslot h8, hcfg, ht, writeReg_idem]

/-- Settles O42: the lanes put together again are the word, and no other list of bytes has a match. -/
theorem byteLanesAreLittleEndian : Obligations.ByteLanesAreLittleEndian := by
  unfold Obligations.ByteLanesAreLittleEndian
  refine ⟨fun w => ?_, fun l hl => decodeBytes_of_length_ne hl⟩
  rw [lanesOf, decodeBytes, append_byteLanes]

/-- Settles O56: no operation writes the buffer, and of the events only a paint of the index and a swap do. -/
theorem onlyTheBufferManagerWritesTheFrontBuffer : Obligations.OnlyTheBufferManagerWritesTheFrontBuffer := by
  unfold Obligations.OnlyTheBufferManagerWritesTheFrontBuffer
  refine ⟨fun i s t k h => by rw [exec_fb h], fun s t k h hne => ?_⟩
  rcases step_cases h with ⟨_, rfl⟩ | ⟨e, rest, hi, he⟩
  · exact absurd rfl hne
  · exact ⟨e, rest, hi, runEvent_pixel he hne⟩

/-- Settles O57: read after write, the last entry of a swapped buffer, and no race outside an attempt. -/
theorem pixelWritesAreVisibleAndLocal : Obligations.PixelWritesAreVisibleAndLocal := by
  unfold Obligations.PixelWritesAreVisibleAndLocal
  refine ⟨fun m i k c h => Memory.read_write h i k c, fun s dt i c d rest hp hi => ?_, Memory.read_ofList,
    fun s dt buf d rest hp hi => ?_⟩
  · exact (step_cons hi).trans (congrArg _ (paint_of_idle (s := takeInput ⟨dt, .paint i c, d⟩ rest s) hp i c))
  · exact (step_cons hi).trans (congrArg _ (swapBuffers_of_idle (s := takeInput ⟨dt, .swap buf, d⟩ rest s) hp buf))

/-- Settles O58: the race of a paint, the race of a swap, a change of the settings, and the latch of an issue. -/
theorem racedPixelIsOldOrNew : Obligations.RacedPixelIsOldOrNew := by
  unfold Obligations.RacedPixelIsOldOrNew
  refine ⟨fun s dt i k j c d rest _ _ hf hw hp hu hi => ?_, fun s dt buf d rest _ _ hf hp hi => ?_,
    fun s dt p d rest hi => step_cons hi, fun s t h hne => ?_⟩
  · obtain ⟨l, hl, -⟩ := hf.request hp (flat_of_unflat hu).1
    have taken := paint_sent_of_taken (s := takeInput ⟨dt, .paint i c, d⟩ rest s) c hf hw hp hu hl
    have notTaken := paint_sent_of_not_taken (s := takeInput ⟨dt, .paint i c, d⟩ rest s) (i := i) c hp
    exact ⟨_, _, _, step_cons hi, paint_blk _ _ _, by rw [paint_env]; rfl, hl, notTaken, taken⟩
  · have hstart : s.env.attemptAt ≤ s.env.sent.length := Nat.le_of_add_right_le (hf hp).1.le
    obtain ⟨hlen, htake⟩ := swapBuffers_earlier (s := takeInput ⟨dt, .swap buf, d⟩ rest s) buf hp hstart
    refine ⟨_, step_cons hi, swapBuffers_blk _ _, by rw [swapBuffers_env], hlen, htake, fun k hk => ?_⟩
    obtain ⟨l, hl, -⟩ := hf.request hp hk
    obtain ⟨l', hstrip⟩ := swapBuffers_request (s := takeInput ⟨dt, .swap buf, d⟩ rest s) buf hf hp hk hl
    obtain ⟨hl', hlen', hlast, hcolors⟩ := hstrip
    exact ⟨_, _, l', hl, hl', hlen', hlast, hcolors⟩
  · rcases step_cases h with ⟨_, rfl⟩ | ⟨e, rest, hi, he⟩
    · exact absurd rfl hne
    · obtain ⟨hpipe, hidle, hbusy, a, hev, hdec⟩ := runEvent_latch he hne
      exact ⟨hpipe, hidle, hbusy, e, rest, a, hi, hev, hdec⟩

/-- Settles O26, by the check of the offset that both bus operations begin with. -/
theorem misalignedOffsetIsABusError : Obligations.MisalignedOffsetIsABusError := by
  unfold Obligations.MisalignedOffsetIsABusError
  exact fun s off v h => ⟨execRegRead_misaligned h s, execRegWrite_misaligned h v s⟩

/-- Settles O43: the step takes the input and makes the host access, which is what its decoding says. -/
theorem stepRunsTheDecodedOperation : Obligations.StepRunsTheDecodedOperation := by
  unfold Obligations.StepRunsTheDecodedOperation
  exact ⟨fun s dt a d rest i hi hd => (step_cons hi).trans (hostAccess_instr hd),
    fun s dt a d rest hi hd => (step_cons hi).trans (hostAccess_elsewhere hd), fun s h => step_nil h⟩

end Sys2Proof.Proofs
end

section
/-! SUPPORT. The decoder on the encoder's accesses, and the words of the table by their numbers (20_memory.md R93, R96,
30_encoding.md R120 to R122, R126, R127). -/

namespace Sys2Proof.Machine

/-- The offset of an address of the window, from the base and the offset (R93). -/
theorem offsetOf_add (base : Nat) (off : BitVec 12) : offsetOf base (base + off.toNat) = off := by
  simp [offsetOf]

/-- A read of a word slot decodes to `REG_READ` of it (R127). -/
theorem decodeAccess_read_slot (base : Nat) {off : BitVec 12} (h : wordSlot off = true) :
    decodeAccess base (.read (base + off.toNat) 4) = .instr (.regRead off) := by
  obtain ⟨hwin, hword⟩ := Laws.LawfulEncoding.window_of_offset base off h
  simp [decodeAccess, hwin, hword, offsetOf_add]

/-- A write of a word slot decodes to the command it carries or to `REG_WRITE` of the slot (R120, R127). -/
theorem decodeAccess_write_slot (base : Nat) {off : BitVec 12} (v : Word) (h : wordSlot off = true) :
    decodeAccess base (.write (base + off.toNat) 4 v) =
      if off.toNat = Reg.cmd.offset then .instr (decodeCommand v).toInstr else .instr (.regWrite off v) := by
  obtain ⟨hwin, hword⟩ := Laws.LawfulEncoding.window_of_offset base off h
  simp [decodeAccess, hwin, hword, offsetOf_add]

/-- A write of CMD decodes to the command its word is (R120). -/
theorem decodeAccess_cmdWrite (base : Nat) (w : Word) :
    decodeAccess base (cmdWrite base w) = .instr (decodeCommand w).toInstr :=
  decodeAccess_write_slot base (off := 0x008) w (by decide)

/-- An illegal word decodes to itself (R121). -/
theorem decodeCommand_of_illegalWord {w : Word} (h : illegalWord w = true) : decodeCommand w = .illegal w := by
  have legal : ∀ op, (op, decodeCommand (commandWord op)) ∈ commandTable → illegalWord (commandWord op) = false := by
    decide
  rcases decodeCommand_cases w with ⟨_, hdec⟩ | ⟨op, rfl, htab⟩
  · exact hdec
  · rw [legal op htab] at h
    cases h

/-- The numbers below 7 are no illegal words (R121, R122). -/
theorem seven_le_of_illegalWord {w : Word} (h : illegalWord w = true) : 7 ≤ w.toNat := by
  have legal : ∀ n < 7, illegalWord (BitVec.ofNat 32 n) = false := by decide
  by_contra hlt
  have hfalse := legal w.toNat (Nat.lt_of_not_le hlt)
  rw [BitVec.ofNat_toNat, BitVec.setWidth_eq, h] at hfalse
  cases hfalse

/-- A well-formed operation's encoding decodes to it (R120, R127). -/
theorem decodeAccess_encode {base : Nat} {i : Instr} {a : Access} (hw : i.wf = true) (h : encode base i = some a) :
    decodeAccess base a = .instr i := by
  cases i with
  | encode c => cases h
  | encodeReset => cases h
  | regRead off =>
    cases h
    exact decodeAccess_read_slot base hw
  | regWrite off v =>
    cases h
    simp only [Instr.wf, Bool.and_eq_true, bne_iff_ne] at hw
    obtain ⟨hslot, hcmd⟩ := hw
    rw [decodeAccess_write_slot base v hslot, if_neg hcmd]
  | illegal w =>
    cases h
    rw [decodeAccess_cmdWrite, decodeCommand_of_illegalWord hw, Command.toInstr]
  | _ =>
    cases h
    exact decodeAccess_cmdWrite base _

/-- Only the two internal operations have no encoding (R150, R155). -/
theorem encode_eq_none_iff (base : Nat) (i : Instr) :
    encode base i = none ↔ (∃ c, i = .encode c) ∨ i = .encodeReset := by
  cases i with
  | encode c => exact iff_of_true rfl (.inl ⟨c, rfl⟩)
  | encodeReset => exact iff_of_true rfl (.inr rfl)
  | _ => simp [encode]

end Sys2Proof.Machine
end

section
/-! SUPPORT. The requests of an attempt in flight are made by an issue and kept by every other operation, answer and
event (41_scheduler.md R200, R204 to R207). -/

namespace Sys2Proof.Safety

open Sys2Proof.Machine

/-- An Idle block has no attempt in flight. -/
theorem FlightInv.of_idle {s : State} (h : s.blk.phase = .idle) : FlightInv s :=
  fun hp => absurd (h.symm.trans hp) (by decide)

theorem txRequests_getElem? {s : State} {k : Nat} (hk : k < s.blk.stripCount.toNat) :
    (txRequests s)[k]? = some (.tx k (outputOf s.blk k) (stripList s.cfg s.env.pipe s.env.fb s.blk k)) := by
  simp [txRequests, hk]

/-- An issue hands out one request per strip, in the strips' order (R200, R204). -/
theorem FlightInv.issue (op : BitVec 4) (t : Word) (s : State) : FlightInv (Machine.issue op t s) := by
  intro _
  refine ⟨by simp [txRequests], fun k hk => ⟨_, ?_, pixelPulses s.cfg s.env.pipe s.env.fb (baseOf s.blk k)
    (pixelsOf s.blk k), rfl, pixelPulses_length _ _ _ _ _⟩⟩
  rw [issue_env, List.getElem?_append_right (Nat.le_add_right _ _), Nat.add_sub_cancel_left]
  exact txRequests_getElem? hk

/-- A command issues an attempt, or hands out requests only while the block is Idle and stays so, or hands out none. -/
theorem FlightInv.execCommand {c : Command} {s t : State} (hf : FlightInv s) (h : execCommand c s = .next t) :
    FlightInv t := by
  rcases execCommand_next h with ⟨_, _, _, rfl⟩ | ⟨_, hp, _, _, rfl | rfl | rfl⟩ | ⟨_, hp, _, rfl⟩ |
    ⟨op, _, _, _, rfl⟩ | ⟨_, _, rfl⟩ | ⟨_, _, rfl⟩
  · exact hf
  · exact .of_idle hp
  · exact .of_idle hp
  · exact .of_idle hp
  · exact .of_idle hp
  · exact .issue op _ s
  · exact hf
  · exact hf

/-- The layout is written only while the block is Uninitialized, hence Idle (R35, R66). -/
theorem FlightInv.exec {i : Instr} {s t : State} (hf : FlightInv s) (hb : BlockInv s.cfg s.blk)
    (h : exec i s = .next t) : FlightInv t := by
  rcases exec_next h with ⟨c, _, hc⟩ | ⟨_, _, _, rfl⟩ | ⟨_, rfl⟩ |
    ⟨_, _, _, _, _, rfl | ⟨_, _, rfl⟩ | ⟨_, rfl⟩ | ⟨hl, b, hw, rfl⟩⟩
  · exact hf.execCommand hc
  · exact hf
  · exact hf
  · exact hf
  · exact hf
  · exact hf
  · refine .of_idle ?_
    rw [hw.frame]
    exact hb.idle_of_uninitialized hl

/-- An answer leaves the requests, or ends the attempt (R206, R207). -/
theorem FlightInv.answer {s : State} (hf : FlightInv s) (k : Nat) (a : Answer) :
    FlightInv (Machine.answer k a s) := by
  rcases answer_cases k a s with ⟨_, h⟩ | ⟨_, _, ⟨_, h⟩ | ⟨_, _, h⟩ | ⟨_, _, h⟩⟩ <;> rw [h]
  · exact hf
  · exact hf
  · exact .of_idle rfl
  · exact .of_idle rfl

/-- The race of a front-buffer write keeps the form of the lists (R205). -/
theorem FlightInv.race {s : State} (hf : FlightInv s) (w : Nat → Bool) : FlightInv (Machine.race w s) := by
  cases hp : s.blk.phase with
  | idle =>
    obtain ⟨-, -, -, hidle⟩ := race_frame w s
    rw [hidle hp]
    exact hf
  | transmitting =>
    rw [race_of_transmitting hp]
    exact (hf.foldl_repaint hp _).1

/-- Every event keeps the requests of the attempt in flight. -/
theorem FlightInv.runEvent {ev : Event} {s t : State} (hf : FlightInv s) (hb : BlockInv s.cfg s.blk)
    (h : runEvent ev s = .next t) : FlightInv t := by
  cases ev with
  | host a =>
    rcases hostAccess_cases h with ⟨i, _, hi⟩ | ⟨_, rfl⟩
    · exact hf.exec hb hi
    · exact hf
  | answer k a => cases h; exact hf.answer k a
  | reset => cases h; exact .of_idle rfl
  | paint i c =>
    cases h
    have hfront : FlightInv (setFront (s.env.fb.write i c) s) := hf
    exact hfront.race _
  | swap buf =>
    cases h
    have hfront : FlightInv (setFront (Memory.ofList buf) s) := hf
    exact hfront.race _
  | pipeline p => cases h; exact hf

end Sys2Proof.Safety
end

section
/-! The statements of 30_encoding.md. -/

namespace Sys2Proof.Proofs

open Sys2Proof.Machine Sys2Proof.Safety

/-- Settles O40: an operation's access decodes to it, and only the internal operations have no access. -/
theorem decodeOfEncodeIsTheInstruction : Obligations.DecodeOfEncodeIsTheInstruction := by
  unfold Obligations.DecodeOfEncodeIsTheInstruction
  exact fun base i hw => ⟨fun _ h => decodeAccess_encode hw h, encode_eq_none_iff base i⟩

/-- Settles O48: taking the input touches no request, and its event keeps those of the attempt in flight. -/
theorem everyStepKeepsTheListsInFlight : Obligations.EveryStepKeepsTheListsInFlight := by
  unfold Obligations.EveryStepKeepsTheListsInFlight
  intro s t _ hb hf h
  rcases step_cases h with ⟨_, rfl⟩ | ⟨e, rest, _, he⟩
  · exact hf
  · have htaken : FlightInv (takeInput e rest s) := hf
    exact htaken.runEvent hb he

/-- Settles O38: a word is illegal, hence 7 or more, or the word of one of the seven opcodes. -/
theorem commandDecoderIsTheTable : Obligations.CommandDecoderIsTheTable := by
  unfold Obligations.CommandDecoderIsTheTable
  intro w
  rcases decodeCommand_cases w with ⟨hill, hdec⟩ | ⟨op, rfl, htab⟩
  · have hw := seven_le_of_illegalWord hill
    iterate 7 rw [if_neg (by omega)]
    exact hdec
  · revert op
    decide

/-- Settles O39: each access, at the spec's own numbers, is evaluated by the decoder. -/
theorem specEncodingsDecode : Obligations.SpecEncodingsDecode := by
  unfold Obligations.SpecEncodingsDecode
  decide

end Sys2Proof.Proofs
end

section
/-! SUPPORT. The two profiles differ, so a bit can be read off its descriptor and a colour off its list; the parts of the
reset descriptor; what the two encoder operations return (00_scope.md R12, 40_encoder.md R150 to R152, R155). -/

namespace Sys2Proof.Machine

/-- The profiles of a valid parameter set differ (R12, R152). -/
theorem profile0_ne_profile1 {p : Params} (h : p.Valid) : profile0 p ≠ profile1 p := by
  obtain ⟨-, -, -, -, hne, -⟩ := h
  intro heq
  obtain ⟨hhigh, hlow⟩ := append_inj heq
  exact hne (Prod.ext hhigh hlow)

/-- Only a 1 bit selects `D1` (R151). -/
theorem sel_eq_profile1_iff {p : Params} (h : p.Valid) (bit : Bool) : sel p bit = profile1 p ↔ bit = true := by
  cases bit with
  | false => exact iff_of_false (profile0_ne_profile1 h) Bool.false_ne_true
  | true => exact iff_of_true rfl rfl

/-- The `k`-th descriptor is `D1` exactly at a 1 bit of the wire word (R150). -/
theorem pulses_getElem?_eq_profile1_iff {p : Params} (h : p.Valid) (c : Color) {k : Nat} (hk : k < 24) :
    (pulses p c)[k]? = some (profile1 p) ↔ (wireWord c).getLsbD (23 - k) = true := by
  rw [pulses_getElem? p c k hk, Option.some_inj, sel_eq_profile1_iff h]

/-- Bit `i` of the wire word is read off descriptor `23 - i`, so equal lists come from one colour (R153). -/
theorem pulses_inj {p : Params} (h : p.Valid) {c d : Color} (heq : pulses p c = pulses p d) : c = d := by
  refine wireWord_inj (BitVec.eq_of_getLsbD_eq fun i hi => ?_)
  have hk : 23 - i < 24 := by omega
  have hbit : 23 - (23 - i) = i := by omega
  have hc := pulses_getElem?_eq_profile1_iff h c hk
  have hd := pulses_getElem?_eq_profile1_iff h d hk
  rw [hbit] at hc hd
  exact Bool.eq_iff_iff.2 (hc.symm.trans (heq ▸ hd))

@[simp] theorem highTicks_resetPulse (p : Params) : highTicks (resetPulse p) = 0 := highTicks_append 0 p.resetTicks

@[simp] theorem lowTicks_resetPulse (p : Params) : lowTicks (resetPulse p) = p.resetTicks.toNat :=
  lowTicks_append 0 p.resetTicks

theorem exec_encode (c : Color) (s : State) :
    exec (.encode c) s = .next (returnDescs (pulses s.cfg c) s) := rfl

theorem exec_encodeReset (s : State) : exec .encodeReset s = .next (returnDescs [resetPulse s.cfg] s) := rfl

end Sys2Proof.Machine
end

section
/-! The statements of 40_encoder.md. -/

namespace Sys2Proof.Proofs

open Sys2Proof.Machine

/-- Settles O19: the length, and the two readings of a list that the difference of the profiles allows. -/
theorem encodeIsInjective : Obligations.EncodeIsInjective := by
  unfold Obligations.EncodeIsInjective
  exact fun p h => ⟨pulses_length p, fun _ _ heq => pulses_inj h heq,
    fun c _ hk => pulses_getElem?_eq_profile1_iff h c hk⟩

/-- Settles O51: every effect of a step stands beside unchanged parameters. -/
theorem noStepChangesAParameter : Obligations.NoStepChangesAParameter := by
  unfold Obligations.NoStepChangesAParameter
  intro s t h
  obtain ⟨hcfg, -⟩ := step_effect h
  exact hcfg

/-- Settles O17: the list returned is `pulses`, with the wire word and the profiles written out. -/
theorem encodeReturnsTheProfilesInWireOrder : Obligations.EncodeReturnsTheProfilesInWireOrder := by
  unfold Obligations.EncodeReturnsTheProfilesInWireOrder
  exact exec_encode

/-- Settles O18: the list returned is the reset descriptor alone. -/
theorem encodeResetReturnsTheResetDescriptor : Obligations.EncodeResetReturnsTheResetDescriptor := by
  unfold Obligations.EncodeResetReturnsTheResetDescriptor
  exact exec_encodeReset

/-- Settles O20: the low part is `RESET_TICKS`, for which a valid parameter set has the bound (R13). -/
theorem resetDescriptorLastsFiftyMicroseconds : Obligations.ResetDescriptorLastsFiftyMicroseconds := by
  unfold Obligations.ResetDescriptorLastsFiftyMicroseconds
  rintro p ⟨-, -, -, -, -, -, hreset, -⟩
  refine ⟨highTicks_resetPulse p, ?_⟩
  calc 50 * p.srcClkHz ≤ p.resetTicks.toNat * p.clkDiv * 1000000 := hreset
    _ = lowTicks (resetPulse p) * p.clkDiv * 1000000 := by rw [lowTicks_resetPulse]

end Sys2Proof.Proofs
end

section
/-! SUPPORT. The statistics record: the averaging step as a number, the bounds an update keeps, and the steps that write
the record (41_scheduler.md R216, R220 to R224, 93_implementation_defined.md I3). -/

namespace Sys2Proof.Machine

/-- The averaging step as a number: no bit of it is lost (R222). -/
theorem avgStep_toNat (m : Nat) (a x : Word) :
    (avgStep m a x).toNat = if m = 0 then x.toNat else (7 * a.toNat + x.toNat) / 8 := by
  unfold avgStep
  split_ifs
  · rfl
  · rw [BitVec.toNat_ofNat]
    omega

/-- An average lies between the bounds of its operands (R222). -/
theorem avgStep_between {m lo hi : Nat} {a x : Word} (ha : m ≠ 0 → lo ≤ a.toNat ∧ a.toNat ≤ hi)
    (hx : lo ≤ x.toNat ∧ x.toNat ≤ hi) : lo ≤ (avgStep m a x).toNat ∧ (avgStep m a x).toNat ≤ hi := by
  rw [avgStep_toNat]
  split_ifs with hm
  · exact hx
  · have := ha hm
    omega

theorem statsUpdate_shows_toNat (st : Stats) (d t0 : Word) :
    (statsUpdate st d t0).shows.toNat = min (st.shows.toNat + 1) (2 ^ 32 - 1) := sat32_toNat _

theorem statsUpdate_min_toNat (st : Stats) (d t0 : Word) :
    (statsUpdate st d t0).min.toNat = min st.min.toNat d.toNat := umin_toNat _ _

theorem statsUpdate_max_toNat (st : Stats) (d t0 : Word) :
    (statsUpdate st d t0).max.toNat = max st.max.toNat d.toNat := umax_toNat _ _

theorem statsUpdate_total_toNat (st : Stats) (d t0 : Word) :
    (statsUpdate st d t0).total.toNat = min (st.total.toNat + d.toNat) (2 ^ 32 - 1) := sat32_toNat _

/-- The first sample has no interval before it (R223). -/
theorem statsUpdate_avgIv (st : Stats) (d t0 : Word) :
    (statsUpdate st d t0).avgIv =
      if st.shows.toNat = 0 then st.avgIv
      else avgStep (st.shows.toNat - 1) st.avgIv (t0 - st.lastStart) := by
  by_cases h0 : st.shows.toNat = 0
  · rw [if_pos h0]
    exact if_neg (by omega)
  · rw [if_neg h0]
    exact if_pos (by omega)

/-- What an operation does to the statistics (R216). -/
theorem ExecEffect.stat {p : Params} {i : Instr} {b b' : Block} (h : ExecEffect p i b b') :
    b'.stat = b.stat ∨ (b'.stat = Stats.reset ∧ Carries i .resetStats) := by
  cases h with
  | cleared hc => exact .inr ⟨rfl, hc⟩
  | layoutWritten _ _ hw => exact .inl (by rw [hw.frame])
  | _ => exact .inl rfl

/-- An answer writes the statistics only as it completes an attempt in success (R208, R209). -/
theorem AnswerEffect.stat {k : Nat} {a : Answer} {b b' : Block} (h : AnswerEffect k a b b') :
    b'.stat = b.stat ∨
    (b'.stat = statsUpdate b.stat b'.duration b.tStart ∧ b'.resTx = true ∧ b'.phase = .idle ∧ a = .ok ∧
      k ∈ b.pend) := by
  cases h with
  | succeeded d _ hk hf =>
    have ha : a = .ok := by cases a <;> simp_all
    exact .inr ⟨rfl, rfl, rfl, ha, hk⟩
  | _ => exact .inl rfl

/-- The input behind a change of the statistics (R224). -/
theorem StepEffect.stat_event {p : Params} {inbox : List Input} {b b' : Block} (h : StepEffect p inbox b b')
    (hne : b'.stat ≠ b.stat) :
    (b'.stat = Stats.reset ∧ ∃ e rest, inbox = e :: rest ∧
      (e.ev = .reset ∨ ∃ a, e.ev = .host a ∧ decodeAccess p.ledcBase a = .instr .resetStats)) ∨
    (b'.stat = statsUpdate b.stat b'.duration b.tStart ∧ b'.resTx = true ∧ b'.phase = .idle ∧
      ∃ e rest k, inbox = e :: rest ∧ e.ev = .answer k .ok ∧ k ∈ b.pend) := by
  cases h with
  | same => exact absurd rfl hne
  | host hi hev hd heff =>
    obtain ⟨hst, hc⟩ := heff.stat.resolve_left hne
    obtain rfl := decodeAccess_carries hd hc
    exact .inl ⟨hst, _, _, hi, .inr ⟨_, hev, hd⟩⟩
  | answer hi hev heff =>
    obtain ⟨hst, htx, hidle, rfl, hk⟩ := heff.stat.resolve_left hne
    exact .inr ⟨hst, htx, hidle, _, _, _, hi, hev, hk⟩
  | reset hi hev => exact .inl ⟨rfl, _, _, hi, .inl hev⟩

end Sys2Proof.Machine

namespace Sys2Proof.Safety

open Sys2Proof.Machine

/-- A sample keeps the bounds: the extremes widen to hold it, and the averages move between their operands (R220). -/
theorem StatsInv.update {st : Stats} (h : StatsInv st) (d t0 : Word) : StatsInv (statsUpdate st d t0) := by
  have hshows := statsUpdate_shows_toNat st d t0
  have hold : st.max.toNat ≤ st.total.toNat := by
    by_cases h0 : st.shows = 0
    · rw [h.empty h0]
      decide
    · exact h.totalBound h0
  refine ⟨fun h0 => ?_, fun _ => ?_, fun _ => ?_, fun _ => ?_, fun h1 => ?_⟩
  · have hzero : (statsUpdate st d t0).shows.toNat = 0 := by rw [h0]; rfl
    omega
  · rw [statsUpdate_min_toNat, statsUpdate_max_toNat]
    exact ⟨min_le_right _ _, le_max_right _ _⟩
  · rw [statsUpdate_min_toNat, statsUpdate_max_toNat]
    refine avgStep_between (fun hm => ?_) ⟨min_le_right _ _, le_max_right _ _⟩
    obtain ⟨hlo, hhi⟩ := h.avgBounds (by rintro h0; simp [h0] at hm)
    exact ⟨min_le_of_left_le hlo, le_max_of_le_left hhi⟩
  · have := d.isLt
    rw [statsUpdate_max_toNat, statsUpdate_total_toNat]
    omega
  · have h0 : st.shows.toNat = 0 := by omega
    rw [statsUpdate_avgIv, if_pos h0]
    exact h.firstInterval (by omega)

end Sys2Proof.Safety
end

section
/-! SUPPORT. The commands by the answer of `accept`: rejected as Busy or NotInitialized, or their body; and the body of
each on the states it distinguishes (41_scheduler.md R182 to R216, 60_exceptions.md R275, R277, R278). -/

namespace Sys2Proof.Machine

/-- `NOP` and `MARK_DIRTY` are never Busy, and only three commands need an Initialized block (R275). -/
theorem accept_eq_zero {op : BitVec 4} {b : Block}
    (hbusy : b.phase = .transmitting → op = Opcode.nop ∨ op = Opcode.markDirty)
    (hlife : op = Opcode.showFrame ∨ op = Opcode.showSynced ∨ op = Opcode.markDirty → b.life = .initialized) :
    accept op b = 0 := by
  rcases accept_cases op b with ⟨_, hp, h1, h2⟩ | ⟨_, hl, hop⟩ | ⟨h, -⟩
  · exact absurd (hbusy hp) (not_or.2 ⟨h1, h2⟩)
  · exact absurd (hl.symm.trans (hlife hop)) (by decide)
  · exact h

/-- A command an attempt in flight rejects writes Busy to `RESULT` (R278). -/
theorem runCommand_busy {op : BitVec 4} {s : State} (h : s.blk.phase = .transmitting) (h1 : op ≠ Opcode.nop)
    (h2 : op ≠ Opcode.markDirty) (body : State → State) : runCommand op body s = reject 6 op s := by
  have hacc := accept_busy h h1 h2
  rw [runCommand_of_reject (by rw [hacc]; decide), hacc]

/-- A command rejected before `INIT` writes NotInitialized to `RESULT` (R277). -/
theorem runCommand_notInitialized {op : BitVec 4} {s : State} (h : s.blk.phase = .idle ∨ op = Opcode.markDirty)
    (hl : s.blk.life = .uninitialized) (h1 : op = Opcode.showFrame ∨ op = Opcode.showSynced ∨ op = Opcode.markDirty)
    (body : State → State) : runCommand op body s = reject 5 op s := by
  have hacc := accept_notInitialized h hl h1
  rw [runCommand_of_reject (by rw [hacc]; decide), hacc]

/-- The layout is valid iff its three conditions hold (R191). -/
theorem layoutOk_iff (p : Params) (b : Block) :
    layoutOk p b = true ↔
      (1 ≤ b.stripCount.toNat ∧ b.stripCount.toNat ≤ p.maxStrips) ∧ 1 ≤ totalOf b ∧ totalOf b ≤ p.maxTotalPixels := by
  simp only [layoutOk, Bool.and_eq_true, decide_eq_true_eq, and_assoc]

/-- `INIT` of an idle, Uninitialized block with a valid layout asks for the allocation (R190). -/
theorem exec_init_allocate {s : State} (hp : s.blk.phase = .idle) (hl : s.blk.life = .uninitialized)
    (hk : layoutOk s.cfg s.blk = true) : exec .init s = .next (initAllocate s) := by
  have hbody : initBody s = initAllocate s := by simp [initBody, hl, hk]
  exact congrArg _ ((runCommand_of_accept (accept_idle hp (.inr (by decide))) initBody).trans hbody)

theorem initAllocate_of_fail {s : State} (ha : s.env.draw.alloc = .fail) :
    initAllocate s = reject 2 1 (emit (allocReq s.blk) s) := by
  rw [initAllocate, ha]
  rfl

theorem initAllocate_of_ok {s : State} (ha : s.env.draw.alloc = .ok) :
    initAllocate s = initConfigure (emit (allocReq s.blk) s) := by
  rw [initAllocate, ha]

theorem initConfigure_of_fail {s : State} (hc : s.env.draw.config = .fail) :
    initConfigure s = reject 3 1 (emit .release (emit (.config (outputIds s.blk)) s)) := by
  rw [initConfigure, hc]
  rfl

theorem initConfigure_of_ok {s : State} (hc : s.env.draw.config = .ok) :
    initConfigure s = successInit (emit (.config (outputIds s.blk)) s) := by
  rw [initConfigure, hc]

/-- Requests handed out one after another are handed out in that order (R20). -/
theorem emit_emit_emit (q r t : Request) (s : State) :
    emit t (emit r (emit q s)) = { s with env := { s.env with sent := s.env.sent ++ [q, r, t] } } := by
  simp [emit]

/-- A successful `INIT` caps the brightness after the requests before it (R192). -/
theorem successInit_emit_emit (q r : Request) (s : State) :
    successInit (emit r (emit q s)) = { s with
      blk := { s.blk with
        life := .initialized, dirty := true, txSeen := false, resCode := 0, resTx := false, resOp := 1 }
      env := { s.env with sent := s.env.sent ++ [q, r, .brightnessCap (maxBrightness s.blk.initFlags)] } } := by
  simp [successInit, emit, setResult, Code.ok, Opcode.init]

/-- An open gate starts the attempt (R203). -/
theorem showSyncedBody_of_open {s : State}
    (h : s.blk.txSeen = false ∨ 1000000 / s.blk.targetFps.toNat ≤ (timeUs s - s.blk.lastTxTime).toNat) :
    showSyncedBody s = issue 4 (timeUs s) s :=
  if_pos ((gateOpen_iff _ _).2 h)

/-- A shut gate skips it (R203). -/
theorem showSyncedBody_of_shut {s : State} (hseen : s.blk.txSeen = true)
    (h : (timeUs s - s.blk.lastTxTime).toNat < 1000000 / s.blk.targetFps.toNat) :
    showSyncedBody s = setResult 0 false 4 s :=
  if_neg fun hopen => ((gateOpen_iff _ _).1 hopen).elim (by simp [hseen]) (Nat.not_le.2 h)

theorem exec_showSynced_of_open {s : State} (hp : s.blk.phase = .idle) (hl : s.blk.life = .initialized)
    (h : s.blk.txSeen = false ∨ 1000000 / s.blk.targetFps.toNat ≤ (timeUs s - s.blk.lastTxTime).toNat) :
    exec .showSynced s = .next (issue 4 (timeUs s) s) :=
  congrArg _ ((runCommand_of_accept (accept_idle hp (.inl hl)) _).trans (showSyncedBody_of_open h))

theorem exec_showSynced_of_shut {s : State} (hp : s.blk.phase = .idle) (hl : s.blk.life = .initialized)
    (hseen : s.blk.txSeen = true) (h : (timeUs s - s.blk.lastTxTime).toNat < 1000000 / s.blk.targetFps.toNat) :
    exec .showSynced s = .next (setResult 0 false 4 s) :=
  congrArg _ ((runCommand_of_accept (accept_idle hp (.inl hl)) _).trans (showSyncedBody_of_shut hseen h))

end Sys2Proof.Machine
end

section
/-! SUPPORT. The pixels of a strip's list, and the step that takes one answer: ignored, noted, or the end of the attempt
(41_scheduler.md R204, R206 to R209). -/

namespace Sys2Proof.Machine

/-- Pixel `j`'s descriptors stand 24 to a pixel from the start of the list, whatever follows (R204). -/
theorem pixelDescs_pixelPulses_append (p : Params) (pipe : Pipeline) (fb : Memory) (i : Nat) {j n : Nat} (hj : j < n)
    (r : List Desc) :
    pixelDescs (pixelPulses p pipe fb i n ++ r) j = pulses p (correct pipe (fb.read (i + j))) := by
  induction n generalizing r with
  | zero => omega
  | succ n ih =>
    rw [pixelPulses_succ, List.append_assoc]
    by_cases hlast : j = n
    · subst hlast
      rw [pixelDescs, List.drop_left' (pixelPulses_length ..), List.take_left' (pulses_length ..)]
    · exact ih (by omega) _

/-- The block at the end of its attempt, at time `now`: the sample of a success, or the report of a failure (R207 to
R209). -/
def attemptEnd (b : Block) (failed : Bool) (now : Nat) : Block :=
  if failed then
    { b with pend := [], phase := .idle, failSeen := failed, resCode := 4, resTx := false, resOp := b.op }
  else
    { b with
      pend := [], phase := .idle, failSeen := failed
      duration := BitVec.ofNat 32 now - b.tStart
      stat := statsUpdate b.stat (BitVec.ofNat 32 now - b.tStart) b.tStart
      dirty := false, resCode := 0, resTx := true, resOp := b.op }

/-- The completion ends the attempt of a block in which nobody waits any more (R207). -/
theorem complete_eq (s : State) (failed : Bool) :
    complete { s with blk := { s.blk with pend := [], failSeen := failed } } =
      { s with blk := attemptEnd s.blk failed s.env.now } := by
  cases failed <;> rfl

/-- With one strip left to wait for, its answer leaves none. -/
theorem filter_ne_eq_nil {l : List Nat} {k : Nat} : l.filter (· != k) = [] ↔ ∀ j ∈ l, j = k := by
  simp [List.filter_eq_nil_iff]

section
variable {s : State} {dt k : Nat} {a : Answer} {d : Draws} {rest : List Input}

/-- The step that takes an answer nobody waits for (R206). -/
theorem step_answer_ignored (hi : s.env.inbox = ⟨dt, .answer k a, d⟩ :: rest)
    (h : s.blk.phase = .idle ∨ k ∉ s.blk.pend) : step s = .next (takeInput ⟨dt, .answer k a, d⟩ rest s) := by
  rw [step_cons hi]
  refine congrArg _ (if_neg ?_)
  rintro ⟨hp, hk⟩
  rcases h with h | h
  · exact absurd (h.symm.trans hp) (by decide)
  · exact h hk

/-- The step that takes an answer with others still to come (R206). -/
theorem step_answer_noted (hi : s.env.inbox = ⟨dt, .answer k a, d⟩ :: rest) (hp : s.blk.phase = .transmitting)
    (hk : k ∈ s.blk.pend) (hleft : ∃ j ∈ s.blk.pend, j ≠ k) :
    step s = .next (takeInput ⟨dt, .answer k a, d⟩ rest (noteAnswer k a s)) := by
  obtain ⟨j, hj, hne⟩ := hleft
  rw [step_cons hi]
  refine congrArg _ ((if_pos ⟨hp, hk⟩).trans (if_neg fun hnil => ?_))
  exact hne (filter_ne_eq_nil.1 hnil j hj)

/-- The step that takes the last answer completes the attempt (R206). -/
theorem step_answer_last (hi : s.env.inbox = ⟨dt, .answer k a, d⟩ :: rest) (hp : s.blk.phase = .transmitting)
    (hk : k ∈ s.blk.pend) (hlast : ∀ j ∈ s.blk.pend, j = k) :
    step s = .next (complete (takeInput ⟨dt, .answer k a, d⟩ rest { s with blk := { s.blk with
      pend := [], failSeen := s.blk.failSeen || a == .fail } })) := by
  have hnil := filter_ne_eq_nil.2 hlast
  rw [step_cons hi, ← hnil]
  exact congrArg _ ((if_pos ⟨hp, hk⟩).trans (if_pos hnil))

/-- The same step, with the block it leaves (R207 to R209). -/
theorem step_answer_end (hi : s.env.inbox = ⟨dt, .answer k a, d⟩ :: rest) (hp : s.blk.phase = .transmitting)
    (hk : k ∈ s.blk.pend) (hlast : ∀ j ∈ s.blk.pend, j = k) :
    step s = .next (takeInput ⟨dt, .answer k a, d⟩ rest
      { s with blk := attemptEnd s.blk (s.blk.failSeen || a == .fail) (s.env.now + dt) }) := by
  rw [step_answer_last hi hp hk hlast]
  exact congrArg _ (complete_eq (takeInput ⟨dt, .answer k a, d⟩ rest s) _)

end

end Sys2Proof.Machine
end

section
/-! SUPPORT. An attempt run to its end: one answer for every waiting strip, alone or among other inputs, and the inputs
that leave the attempt as it is (41_scheduler.md R206 to R209, 60_exceptions.md R278, 70_reset_and_hazards.md R291,
R326). -/

namespace Sys2Proof.Machine

open Sys2Proof.Safety

/-- The end of an attempt writes its own record and the report of it (R207 to R209). -/
theorem attemptEnd_frame (b : Block) (f : Bool) (n : Nat) :
    attemptEnd b f n = { b with
      pend := [], phase := .idle, failSeen := (attemptEnd b f n).failSeen, dirty := (attemptEnd b f n).dirty
      duration := (attemptEnd b f n).duration, stat := (attemptEnd b f n).stat
      resCode := (attemptEnd b f n).resCode, resTx := (attemptEnd b f n).resTx, resOp := b.op } := by
  cases f <;> rfl

/-- Who waited and what failed before does not show in what the end of an attempt leaves. -/
@[simp] theorem attemptEnd_waiting (b : Block) (pend : List Nat) (failSeen f : Bool) (n : Nat) :
    attemptEnd { b with pend := pend, failSeen := failSeen } f n = attemptEnd b f n := by
  cases f <;> rfl

/-- The state at the end of an attempt, `dt` microseconds and the last answer later; `failed` says if one of the answers
told a failure. -/
def answered (s : State) (rest : List Input) (failed : Bool) (dt : Nat) (d : Draws) : State :=
  { s with
    blk := attemptEnd s.blk (s.blk.failSeen || failed) (s.env.now + dt)
    env := { s.env with inbox := rest, now := s.env.now + dt, draw := d } }

/-- An answer noted on the way counts for the outcome, and its time for the duration. -/
theorem answered_noteAnswer (s : State) (rest r : List Input) (k : Nat) (a : Answer) (f : Bool) (dt dt' : Nat)
    (d d' : Draws) :
    answered (takeInput ⟨dt, .answer k a, d⟩ r (noteAnswer k a s)) rest f dt' d' =
      answered s rest (a == .fail || f) (dt + dt') d' := by
  simp [answered, Bool.or_assoc, Nat.add_assoc]

/-- The first of the answers still to come is for a strip that waits, and the others are for the rest. -/
theorem answers_left {k : Nat} {ks pend : List Nat} (hnodup : pend.Nodup) (h : (k :: ks).Perm pend) :
    k ∈ pend ∧ ks.Perm (pend.filter (· != k)) := by
  obtain ⟨hk, hks⟩ := List.cons_perm_iff_perm_erase.1 h
  exact ⟨hk, by rwa [hnodup.erase_eq_filter] at hks⟩

/-- With an answer still to come some other strip waits. -/
theorem exists_waiting {k : Nat} {ks pend : List Nat} (h : ks.Perm (pend.filter (· != k))) (hks : ks ≠ []) :
    ∃ j ∈ pend, j ≠ k := by
  by_contra hnone
  push Not at hnone
  rw [filter_ne_eq_nil.2 hnone] at h
  exact hks h.eq_nil

/-- One answer for every waiting strip, in any order, ends the attempt (R206, R207). -/
theorem run_answers {answers rest : List Input} {told : List (Nat × Answer)} {s : State}
    (hp : s.blk.phase = .transmitting) (hnodup : s.blk.pend.Nodup) (hne : told ≠ [])
    (hi : s.env.inbox = answers ++ rest)
    (hev : answers.map (fun e => e.ev) = told.map fun q => Event.answer q.1 q.2)
    (hperm : (told.map Prod.fst).Perm s.blk.pend) :
    ∃ d, core.run answers.length s =
      .next (answered s rest (told.any (·.2 == .fail)) (answers.map fun e => e.dt).sum d) := by
  induction told generalizing s answers with
  | nil => exact absurd rfl hne
  | cons q told ih =>
    obtain ⟨k, a⟩ := q
    obtain ⟨⟨dt, ev, d⟩, answers, rfl, (rfl : ev = .answer k a), htold⟩ := List.map_eq_cons_iff.1 hev
    obtain ⟨hk, hleft⟩ := answers_left hnodup (ks := told.map Prod.fst) hperm
    by_cases hlast : told = []
    · subst hlast
      obtain rfl : answers = [] := List.map_eq_nil_iff.1 htold
      have hend := step_answer_end hi hp hk (filter_ne_eq_nil.1 hleft.nil_eq.symm)
      refine ⟨d, (run_succ 0 hend).trans ?_⟩
      rw [List.any_cons, List.any_nil, Bool.or_false]
      rfl
    · have hnoted := step_answer_noted (a := a) hi hp hk (exists_waiting hleft (by simpa using hlast))
      obtain ⟨d', hrun⟩ := ih (s := takeInput ⟨dt, .answer k a, d⟩ (answers ++ rest) (noteAnswer k a s)) hp
        (hnodup.filter _) hlast rfl htold hleft
      rw [answered_noteAnswer] at hrun
      exact ⟨d', (run_succ _ hnoted).trans hrun⟩

/-- Answers that tell no failure end an attempt without one in success (R208). -/
theorem run_ok_answers {answers rest : List Input} {order : List Nat} {s : State}
    (hp : s.blk.phase = .transmitting) (hnodup : s.blk.pend.Nodup) (hne : s.blk.pend ≠ [])
    (hi : s.env.inbox = answers ++ rest)
    (hev : answers.map (fun e => e.ev) = order.map fun k => Event.answer k .ok) (hperm : order.Perm s.blk.pend) :
    ∃ d, core.run answers.length s = .next (answered s rest false (answers.map fun e => e.dt).sum d) := by
  have hpairs : order.map (fun k => Event.answer k .ok) =
      (order.map fun k => (k, Answer.ok)).map fun q => Event.answer q.1 q.2 := by rw [List.map_map]; rfl
  have hstrips : (order.map fun k => (k, Answer.ok)).map Prod.fst = order := by
    rw [List.map_map]
    exact List.map_id order
  have hok : (order.map fun k => (k, Answer.ok)).any (·.2 == .fail) = false := by simp
  have hsome : order.map (fun k => (k, Answer.ok)) ≠ [] := by
    rw [Ne, List.map_eq_nil_iff]
    rintro rfl
    exact hne hperm.nil_eq.symm
  have hrun := run_answers hp hnodup hsome hi (hev.trans hpairs) (by rwa [hstrips])
  rwa [hok] at hrun

/-- An attempt without a failure seen or told succeeds (R207). -/
theorem failed_eq_false {seen : Bool} {told : List (Nat × Answer)} (hseen : seen = false)
    (hok : ∀ q ∈ told, q.2 = .ok) : (seen || told.any (·.2 == .fail)) = false := by
  have hnone : told.any (·.2 == .fail) = false := List.any_eq_false.2 fun q hq => by rw [hok q hq]; decide
  rw [hseen, hnone, Bool.or_false]

/-- A failure seen or told is the attempt's (R206). -/
theorem failed_eq_true {seen : Bool} {told : List (Nat × Answer)} (h : seen = true ∨ ∃ q ∈ told, q.2 = .fail) :
    (seen || told.any (·.2 == .fail)) = true := by
  simpa using h

/-- The block without the elements that a host may write while an attempt is in flight: `RESULT`, dirty, the target rate
and the encoder's colour. -/
def attemptPart (b : Block) : Block :=
  { b with dirty := false, resCode := 0, resTx := false, resOp := 0, targetFps := 0, encColor := Color.black }

/-- What of it no answer writes before the last one. -/
def attemptRecord (b : Block) : Block := { attemptPart b with pend := [], failSeen := false }

theorem attemptRecord_congr {b b' : Block} (h : attemptPart b' = attemptPart b) :
    attemptRecord b' = attemptRecord b := by
  rw [attemptRecord, h, attemptRecord]

/-- Who waits, and whether the block is in an attempt, is of that part. -/
theorem flight_of_attemptPart {b b' : Block} (h : attemptPart b' = attemptPart b) :
    b'.phase = b.phase ∧ b'.life = b.life ∧ b'.pend = b.pend ∧ b'.failSeen = b.failSeen :=
  ⟨(congrArg Block.phase h :), (congrArg Block.life h :), (congrArg Block.pend h :), (congrArg Block.failSeen h :)⟩

/-- The end of an attempt leaves what its record fixes, whatever the outcome. -/
theorem attemptEnd_of_record {b b₀ : Block} (h : attemptRecord b = attemptRecord b₀) (failed : Bool) (n : Nat) :
    (attemptEnd b failed n).phase = .idle ∧ (attemptEnd b failed n).life = b₀.life ∧
    (attemptEnd b failed n).pend = [] ∧ (attemptEnd b failed n).resOp = b₀.op ∧
    (attemptEnd b failed n).tStart = b₀.tStart ∧ (attemptEnd b failed n).lastTxTime = b₀.lastTxTime ∧
    (attemptEnd b failed n).txSeen = b₀.txSeen := by
  rw [attemptEnd_frame]
  exact ⟨rfl, (congrArg Block.life h :), rfl, (congrArg Block.op h :), (congrArg Block.tStart h :),
    (congrArg Block.lastTxTime h :), (congrArg Block.txSeen h :)⟩

/-- A command during an attempt is rejected, or it is `NOP` or `MARK_DIRTY` (R278). -/
theorem execCommand_attemptPart {c : Command} {s t : State} (h : execCommand c s = .next t)
    (hp : s.blk.phase = .transmitting) : attemptPart t.blk = attemptPart s.blk := by
  have busy : s.blk.phase ≠ .idle := by simp [hp]
  rcases execCommand_next h with ⟨_, _, _, rfl⟩ | ⟨_, hidle, _⟩ | ⟨_, hidle, _⟩ | ⟨_, _, hidle, _⟩ | ⟨_, _, rfl⟩ |
    ⟨_, hidle, _⟩
  · rfl
  · exact absurd hidle busy
  · exact absurd hidle busy
  · exact absurd hidle busy
  · rfl
  · exact absurd hidle busy

/-- An operation during an attempt leaves the attempt as it is: the layout is locked (R66, R278). -/
theorem exec_attemptPart {i : Instr} {s t : State} (h : exec i s = .next t) (hp : s.blk.phase = .transmitting)
    (hl : s.blk.life = .initialized) : attemptPart t.blk = attemptPart s.blk := by
  rcases exec_next h with ⟨c, _, hc⟩ | ⟨_, _, _, rfl⟩ | ⟨_, rfl⟩ |
    ⟨_, _, _, _, _, rfl | ⟨_, _, rfl⟩ | ⟨_, rfl⟩ | ⟨hu, _⟩⟩
  · exact execCommand_attemptPart hc hp
  · rfl
  · rfl
  · rfl
  · rfl
  · rfl
  · exact absurd (hl.symm.trans hu) (by decide)

/-- The operation of a lawful access goes on in every state (R96). -/
theorem exec_next_of_decodeAccess {base : Nat} {a : Access} {i : Instr} (h : decodeAccess base a = .instr i)
    (s : State) : ∃ t, exec i s = .next t := by
  cases a with
  | read addr size =>
    obtain ⟨_, _, hslot, rfl⟩ := decodeAccess_read h
    exact ⟨_, execRegRead_slot ((wordSlot_iff _).1 hslot) s⟩
  | write addr size v =>
    obtain ⟨_, _, hslot, ⟨_, rfl⟩ | ⟨h8, rfl⟩⟩ := decodeAccess_write h
    · rw [exec_toInstr]
      cases decodeCommand v <;> exact ⟨_, rfl⟩
    · exact ⟨_, regWrite_slot v s hslot h8⟩

/-- A step that takes a calm input goes on (R96, R280). -/
theorem step_next_of_calm {s : State} {e : Input} {rest : List Input} (hi : s.env.inbox = e :: rest)
    (h : calmInput s.cfg.ledcBase e = true) : ∃ t, step s = .next t := by
  rw [step_cons hi]
  cases hev : e.ev with
  | host a =>
    have hlawful : lawfulAccess s.cfg.ledcBase a = true := by simpa [calmInput, hev] using h
    cases hd : decodeAccess s.cfg.ledcBase a with
    | instr i =>
      obtain ⟨t, ht⟩ := exec_next_of_decodeAccess hd (takeInput e rest s)
      exact ⟨t, (hostAccess_instr (s := takeInput e rest s) hd).trans ht⟩
    | busError addr size => simp [lawfulAccess, hd] at hlawful
    | elsewhere => exact ⟨_, hostAccess_elsewhere hd⟩
  | _ => exact ⟨_, rfl⟩

/-- No event touches the inputs still to come. -/
theorem runEvent_inbox {ev : Event} {s t : State} (h : runEvent ev s = .next t) : t.env.inbox = s.env.inbox := by
  cases ev with
  | host a =>
    rcases hostAccess_cases h with ⟨i, _, hi⟩ | ⟨_, rfl⟩
    · rw [exec_env hi]
    · rfl
  | answer k a => cases h; simp
  | reset => cases h; simp
  | paint i c => cases h; rw [paint_env]
  | swap buf => cases h; rw [swapBuffers_env]
  | pipeline p => cases h; simp

/-- An input that leaves the attempt as it is: no reset, no unlawful access, and no answer a strip waits for. -/
def QuietInput (s : State) (e : Input) : Prop :=
  calmInput s.cfg.ledcBase e = true ∧ ∀ k a, e.ev = .answer k a → k ∉ s.blk.pend

/-- A quiet event leaves the attempt as it is. -/
theorem runEvent_attemptPart {e : Input} {s t : State} (h : runEvent e.ev s = .next t)
    (hp : s.blk.phase = .transmitting) (hl : s.blk.life = .initialized) (hq : QuietInput s e) :
    attemptPart t.blk = attemptPart s.blk := by
  obtain ⟨hcalm, hwait⟩ := hq
  cases hev : e.ev with
  | host a =>
    rw [hev] at h
    rcases hostAccess_cases h with ⟨i, _, hi⟩ | ⟨_, rfl⟩
    · exact exec_attemptPart hi hp hl
    · rfl
  | answer k a =>
    rw [hev] at h
    cases h
    rcases answer_cases k a s with ⟨_, hsame⟩ | ⟨_, hk, _⟩
    · rw [hsame]
    · exact absurd hk (hwait k a hev)
  | reset => simp [calmInput, hev] at hcalm
  | paint i c => rw [hev] at h; cases h; rw [paint_blk]
  | swap buf => rw [hev] at h; cases h; rw [swapBuffers_blk]
  | pipeline p => rw [hev] at h; cases h; rfl

/-- The step that takes a quiet input goes on, and leaves the attempt as it is (R278, R326). -/
theorem step_quiet {s : State} {e : Input} {rest : List Input} (hp : s.blk.phase = .transmitting)
    (hl : s.blk.life = .initialized) (hi : s.env.inbox = e :: rest) (hq : QuietInput s e) :
    ∃ t, step s = .next t ∧ t.cfg = s.cfg ∧ t.env.inbox = rest ∧ t.env.now = s.env.now + e.dt ∧
      attemptPart t.blk = attemptPart s.blk := by
  obtain ⟨t, ht⟩ := step_next_of_calm hi hq.1
  have hrun := (step_cons hi).symm.trans ht
  exact ⟨t, ht, (step_effect ht).1, runEvent_inbox hrun, runEvent_now hrun,
    runEvent_attemptPart (s := takeInput e rest s) hrun hp hl hq⟩

/-- As long as no waiting strip is answered, the attempt stays in flight. -/
theorem run_quiet {l rest : List Input} {s : State} (hp : s.blk.phase = .transmitting)
    (hl : s.blk.life = .initialized) (hi : s.env.inbox = l ++ rest) (hq : ∀ e ∈ l, QuietInput s e) :
    ∃ t, core.run l.length s = .next t ∧ t.cfg = s.cfg ∧ t.env.inbox = rest ∧
      attemptPart t.blk = attemptPart s.blk := by
  induction l generalizing s with
  | nil => exact ⟨s, rfl, rfl, hi, rfl⟩
  | cons e l ih =>
    obtain ⟨he, hrest⟩ := List.forall_mem_cons.1 hq
    obtain ⟨u, hs, hcfg, hinbox, -, hpart⟩ := step_quiet hp hl hi he
    obtain ⟨hphase, hlife, hpend, -⟩ := flight_of_attemptPart hpart
    obtain ⟨t, hrun, htcfg, htinbox, htpart⟩ := ih (hphase.trans hp) (hlife.trans hl) hinbox
      fun e he => by rw [QuietInput, hcfg, hpend]; exact hrest e he
    exact ⟨t, (run_succ _ hs).trans hrun, htcfg.trans hcfg, htinbox, htpart.trans hpart⟩

/-- Among the inputs `l`, before `rest`, is one whose step ends the attempt in flight. -/
def AttemptEnds (s : State) (l rest : List Input) (failed : Bool) : Prop :=
  ∃ n t b, n ≤ l.length ∧ core.run n s = .next t ∧ t.cfg = s.cfg ∧ t.env.inbox = l.drop n ++ rest ∧
    t.env.now = s.env.now + ((l.take n).map fun e => e.dt).sum ∧ attemptRecord b = attemptRecord s.blk ∧
    t.blk = attemptEnd b failed t.env.now

/-- A step that keeps the record of the attempt comes before its end. -/
theorem AttemptEnds.cons {s u : State} {e : Input} {l rest : List Input} {failed : Bool} (hs : step s = .next u)
    (hcfg : u.cfg = s.cfg) (hnow : u.env.now = s.env.now + e.dt)
    (hrec : attemptRecord u.blk = attemptRecord s.blk) (h : AttemptEnds u l rest failed) :
    AttemptEnds s (e :: l) rest failed := by
  obtain ⟨n, t, b, hn, hrun, htcfg, htinbox, htnow, hb, ht⟩ := h
  refine ⟨n + 1, t, b, Nat.succ_le_succ hn, (run_succ n hs).trans hrun, htcfg.trans hcfg, htinbox, ?_,
    hb.trans hrec, ht⟩
  rw [htnow, hnow, List.take_succ_cons, List.map_cons, List.sum_cons, Nat.add_assoc]

theorem answersIn_cons_answer {e : Input} {k : Nat} {a : Answer} (h : e.ev = .answer k a) (l : List Input) :
    answersIn (e :: l) = (k, a) :: answersIn l := by
  simp [answersIn, h]

theorem answersIn_cons_of_ne {e : Input} (h : ∀ k a, e.ev ≠ .answer k a) (l : List Input) :
    answersIn (e :: l) = answersIn l := by
  unfold answersIn
  cases hev : e.ev with
  | answer k a => exact absurd hev (h k a)
  | _ => simp [hev]

theorem mem_answersIn {l : List Input} {e : Input} {k : Nat} {a : Answer} (he : e ∈ l) (h : e.ev = .answer k a) :
    (k, a) ∈ answersIn l :=
  List.mem_filterMap.2 ⟨e, he, by rw [h]⟩

/-- Under the duty of the primitive the attempt ends, whatever else the inputs hold (R291, R326). -/
theorem attemptEnds_of_answeredOnce {l rest : List Input} {s : State} (hp : s.blk.phase = .transmitting)
    (hl : s.blk.life = .initialized) (hnodup : s.blk.pend.Nodup) (hne : s.blk.pend ≠ [])
    (hi : s.env.inbox = l ++ rest) (hcalm : ∀ e ∈ l, calmInput s.cfg.ledcBase e = true)
    (hduty : AnsweredOnce s.blk.pend l) :
    AttemptEnds s l rest (s.blk.failSeen || (answersIn l).any (·.2 == .fail)) := by
  induction l generalizing s with
  | nil => exact absurd hduty.nil_eq.symm hne
  | cons e l ih =>
    obtain ⟨he, hrest⟩ := List.forall_mem_cons.1 hcalm
    by_cases hanswer : ∃ k a, e.ev = .answer k a
    · obtain ⟨dt, ev, d⟩ := e
      obtain ⟨k, a, rfl : ev = _⟩ := hanswer
      rw [AnsweredOnce, answersIn_cons_answer rfl] at hduty
      rw [answersIn_cons_answer rfl, List.any_cons, ← Bool.or_assoc]
      obtain ⟨hk, hleft⟩ := answers_left hnodup hduty
      by_cases hlast : answersIn l = []
      · rw [hlast] at hleft ⊢
        have hend := step_answer_end hi hp hk (filter_ne_eq_nil.1 hleft.nil_eq.symm)
        exact ⟨1, _, s.blk, by simp, run_succ 0 hend, rfl, rfl, by simp, rfl, by simp⟩
      · have hwait := exists_waiting hleft (by simpa using hlast)
        have hnoted := step_answer_noted (a := a) hi hp hk hwait
        obtain ⟨j, hj, hjk⟩ := hwait
        exact .cons hnoted rfl rfl rfl (ih hp hl (hnodup.filter _)
          (List.ne_nil_of_mem (List.mem_filter.2 ⟨hj, by simpa using hjk⟩)) rfl hrest hleft)
    · have hother : ∀ k a, e.ev ≠ .answer k a := fun k a h => hanswer ⟨k, a, h⟩
      obtain ⟨u, hs, hcfg, hinbox, hnow, hpart⟩ := step_quiet hp hl hi ⟨he, fun k a h => absurd h (hother k a)⟩
      obtain ⟨hphase, hlife, hpend, hfail⟩ := flight_of_attemptPart hpart
      rw [AnsweredOnce, answersIn_cons_of_ne hother, ← hpend] at hduty
      rw [answersIn_cons_of_ne hother, ← hfail]
      exact .cons hs hcfg hnow (attemptRecord_congr hpart) (ih (hphase.trans hp) (hlife.trans hl)
        (by rwa [hpend]) (by rwa [hpend]) hinbox (by rwa [hcfg]) hduty)

end Sys2Proof.Machine
end

section
/-! SUPPORT. Two synchronised shows: the step of a command written to CMD, the wrapping difference of two times, and a
run of two parts (30_encoding.md R120, 41_scheduler.md R202, R203). -/

namespace Sys2Proof.Machine

open Sys2Proof.Safety

/-- A run of `m + n` steps whose first `m` go on. -/
theorem run_add_of (M : Host.Core) (m n : Nat) {s t : M.State} (h : M.run m s = .next t) :
    M.run (m + n) s = M.run n t := by
  induction m generalizing s with
  | zero =>
    cases h
    rw [Nat.zero_add]
  | succ m ih =>
    rw [Host.Core.run] at h
    split at h
    next u hs => rw [Nat.add_right_comm, run_succ_of M _ hs, ih h]
    next => cases h
    next => cases h

/-- The step that takes a write of CMD runs the command of its word (R120). -/
theorem step_cmdWrite {s : State} {e : Input} {rest : List Input} {w : Word} (hi : s.env.inbox = e :: rest)
    (hev : e.ev = .host (cmdWrite s.cfg.ledcBase w)) :
    step s = exec (decodeCommand w).toInstr (takeInput e rest s) := by
  rw [step_cons hi, hev]
  exact hostAccess_instr (s := takeInput e rest s) (decodeAccess_cmdWrite _ w)

/-- Less than a wrap apart, the difference of two time samples is the time between them (R17). -/
theorem elapsed_toNat (n : Nat) {x : Nat} (h : x < 2 ^ 32) : (BitVec.ofNat 32 (n + x) - BitVec.ofNat 32 n).toNat = x := by
  rw [BitVec.ofNat_add, add_sub_cancel_left, BitVec.toNat_ofNat, Nat.mod_eq_of_lt h]

/-- A synchronised show whose gate is open, answered ok by every strip, is one transmission: the block is Idle again, and
its last time is that of the show (R203, R208). -/
theorem run_synced_show {s : State} {e : Input} {answers rest : List Input} {order : List Nat}
    (hp : s.blk.phase = .idle) (hl : s.blk.life = .initialized) (hstrips : 1 ≤ s.blk.stripCount.toNat)
    (hopen : s.blk.txSeen = false ∨
      1000000 / s.blk.targetFps.toNat ≤ (BitVec.ofNat 32 (s.env.now + e.dt) - s.blk.lastTxTime).toNat)
    (he : e.ev = .host (cmdWrite s.cfg.ledcBase 4)) (horder : order.Perm (List.range s.blk.stripCount.toNat))
    (hev : answers.map (fun e => e.ev) = order.map fun k => Event.answer k .ok)
    (hi : s.env.inbox = e :: (answers ++ rest)) :
    ∃ t : State, core.run (answers.length + 1) s = .next t ∧ t.cfg = s.cfg ∧ t.env.inbox = rest ∧
      t.env.now = s.env.now + e.dt + (answers.map fun e => e.dt).sum ∧ t.blk.phase = .idle ∧
      t.blk.life = .initialized ∧ t.blk.txSeen = true ∧ t.blk.lastTxTime = BitVec.ofNat 32 (s.env.now + e.dt) ∧
      t.blk.targetFps = s.blk.targetFps ∧ t.blk.stat.shows = sat32 (s.blk.stat.shows.toNat + 1) := by
  have hshow := (step_cmdWrite hi he).trans
    (exec_showSynced_of_open (s := takeInput e (answers ++ rest) s) hp hl hopen)
  have hwait : List.range s.blk.stripCount.toNat ≠ [] := by
    rw [Ne, List.range_eq_nil]
    omega
  obtain ⟨d, hanswers⟩ := run_ok_answers (s := issue 4 _ (takeInput e (answers ++ rest) s)) rfl
    List.nodup_range hwait rfl hev horder
  exact ⟨_, (run_succ _ hshow).trans hanswers, rfl, rfl, rfl, rfl, hl, rfl, rfl, rfl, rfl⟩

end Sys2Proof.Machine

namespace Sys2Proof.Safety

open Sys2Proof.Machine

/-- No strip waits twice (R39). -/
theorem BlockInv.nodup_pend {p : Params} {b : Block} (h : BlockInv p b) : b.pend.Nodup :=
  h.pendAscending.imp Nat.ne_of_lt

end Sys2Proof.Safety
end

section
/-! The statements of 41_scheduler.md. -/

namespace Sys2Proof.Proofs

open Sys2Proof.Machine Sys2Proof.Safety

/-- Settles O47: a step that writes the record puts it at its reset values or takes one sample into it. -/
theorem everyStepKeepsTheStatisticsBounds : Obligations.EveryStepKeepsTheStatisticsBounds := by
  unfold Obligations.EveryStepKeepsTheStatisticsBounds
  intro s t hst hs
  by_cases hne : t.blk.stat = s.blk.stat
  · rwa [hne]
  · rcases (step_effect hs).2.stat_event hne with ⟨hreset, -⟩ | ⟨hupdate, -⟩
    · rw [hreset]
      exact StatsInv.reset
    · rw [hupdate]
      exact hst.update _ _

/-- Settles O12, by the state the command finds: Busy, NotInitialized, the gate open, the gate shut. -/
theorem showSyncedTransmitsIffTheGateIsOpen : Obligations.ShowSyncedTransmitsIffTheGateIsOpen := by
  unfold Obligations.ShowSyncedTransmitsIffTheGateIsOpen
  refine fun s => ⟨fun hp => ?_, fun hp hl => ?_, fun hp hl hopen => ?_, fun hp hl ⟨hseen, hshut⟩ => ?_⟩
  · exact congrArg _ (runCommand_busy hp (by decide) (by decide) _)
  · exact congrArg _ (runCommand_notInitialized (.inl hp) hl (by decide) _)
  · exact exec_showSynced_of_open hp hl hopen
  · exact exec_showSynced_of_shut hp hl hseen hshut

/-- Settles O21: the length, the pixels, and the descriptor after the last pixel's. -/
theorem stripListCoversEveryPixelAndEndsInReset : Obligations.StripListCoversEveryPixelAndEndsInReset := by
  unfold Obligations.StripListCoversEveryPixelAndEndsInReset
  refine fun p pipe fb b k => ⟨by simp [stripList], fun j hj => ?_, by simp [stripList]⟩
  exact pixelDescs_pixelPulses_append p pipe fb _ hj _

/-- Settles O29, by who still waits. -/
theorem answerTakesItsStripOutOfPend : Obligations.AnswerTakesItsStripOutOfPend := by
  unfold Obligations.AnswerTakesItsStripOutOfPend
  exact fun s dt k a d rest hi => ⟨step_answer_ignored hi, step_answer_noted hi, step_answer_last hi⟩

/-- Settles O30: the end of an attempt with no failure seen or told. -/
theorem lastAnswerCompletesASuccess : Obligations.LastAnswerCompletesASuccess := by
  unfold Obligations.LastAnswerCompletesASuccess
  intro s dt k d rest hi hp hk hlast hf
  have hsucceeded : (s.blk.failSeen || Answer.ok == .fail) = s.blk.failSeen := Bool.or_false _
  rw [step_answer_end hi hp hk hlast, hsucceeded, attemptEnd, if_neg (by simp [hf])]

/-- Settles O31: the end of an attempt with a failure seen or told. -/
theorem lastAnswerReportsAFailure : Obligations.LastAnswerReportsAFailure := by
  unfold Obligations.LastAnswerReportsAFailure
  intro s dt k a d rest hi hp hk hlast hf
  have hfailed : (s.blk.failSeen || a == .fail) = true := by simpa using hf
  rw [step_answer_end hi hp hk hlast, hfailed]
  rfl

/-- Settles O32: the numbers of the saturating and extremal words; the other fields are the formulas themselves. -/
theorem statsUpdateFollowsTheFormulas : Obligations.StatsUpdateFollowsTheFormulas := by
  unfold Obligations.StatsUpdateFollowsTheFormulas
  intro st d t0
  exact ⟨statsUpdate_shows_toNat _ _ _, rfl, statsUpdate_min_toNat _ _ _, statsUpdate_max_toNat _ _ _,
    statsUpdate_total_toNat _ _ _, rfl, statsUpdate_avgIv _ _ _, rfl⟩

/-- Settles O33: the step as a number, and the bounds 0 and the larger operand around it. -/
theorem averageStepNeverOverflows : Obligations.AverageStepNeverOverflows := by
  unfold Obligations.AverageStepNeverOverflows
  intro m a x
  have hbound := avgStep_between (m := m) (fun _ => ⟨Nat.zero_le _, Nat.le_max_left a.toNat x.toNat⟩)
    ⟨Nat.zero_le _, Nat.le_max_right a.toNat x.toNat⟩
  exact ⟨avgStep_toNat m a x, hbound.2, fun _ _ => rfl⟩

/-- Settles O34: the run of the answers, and what the end of the attempt leaves in either outcome. -/
theorem everyOrderOfAnswersCompletes : Obligations.EveryOrderOfAnswersCompletes := by
  unfold Obligations.EveryOrderOfAnswersCompletes
  intro s answers rest told hb hp hi hev hperm
  have hne : told ≠ [] := by
    rintro rfl
    exact hb.busyPending.1 hp hperm.nil_eq.symm
  obtain ⟨d, hrun⟩ := run_answers hp hb.nodup_pend hne hi hev hperm
  refine ⟨_, hrun, rfl, rfl, attemptEnd_frame _ _ _, fun hseen hok => ?_, fun hfail => ?_⟩
  · rw [answered, failed_eq_false hseen hok]
    exact ⟨rfl, rfl, rfl, rfl, rfl⟩
  · rw [answered, failed_eq_true hfail]
    exact ⟨rfl, rfl, rfl, rfl, rfl⟩

/-- Settles O35: the end of the attempt among the other inputs, and the inputs that answer nobody. -/
theorem fairAnswersEndTheAttempt : Obligations.FairAnswersEndTheAttempt := by
  unfold Obligations.FairAnswersEndTheAttempt
  intro s l rest _ hb hp hi hcalm
  have hl := hb.busyInitialized hp
  refine ⟨fun hduty => ?_, fun hnone => ?_⟩
  · obtain ⟨n, t, b, hn, hrun, hcfg, hinbox, hnow, hrec, ht⟩ :=
      attemptEnds_of_answeredOnce hp hl hb.nodup_pend (hb.busyPending.1 hp) hi hcalm hduty
    have hstart : b.tStart = s.blk.tStart := (congrArg Block.tStart hrec :)
    have hduration : b.duration = s.blk.duration := (congrArg Block.duration hrec :)
    have hstat : b.stat = s.blk.stat := (congrArg Block.stat hrec :)
    have hend := attemptEnd_of_record hrec (s.blk.failSeen || (answersIn l).any (·.2 == .fail)) t.env.now
    rw [← ht, hl] at hend
    obtain ⟨hphase, hlife, hpend, hop, htstart, hlast, hseen⟩ := hend
    refine ⟨n, t, hn, hrun, hcfg, hinbox, hnow, hphase, hlife, hpend, hop, htstart, hlast, hseen,
      fun hnofail hok => ?_, fun hfail => ?_⟩
    · rw [failed_eq_false hnofail hok] at ht
      rw [ht, ← hstart, ← hstat]
      exact ⟨rfl, rfl, rfl, rfl, rfl⟩
    · rw [failed_eq_true hfail] at ht
      rw [ht, ← hduration, ← hstat]
      exact ⟨rfl, rfl, rfl, rfl⟩
  · obtain ⟨t, hrun, hcfg, hinbox, hpart⟩ := run_quiet hp hl hi fun e he => ⟨hcalm e he, fun k a hev =>
      hnone (k, a) (mem_answersIn he hev)⟩
    obtain ⟨hphase, -, hpend, hfail⟩ := flight_of_attemptPart hpart
    exact ⟨t, hrun, hcfg, hinbox, hphase.trans hp, hpend, hfail, (congrArg Block.op hpart :),
      (congrArg Block.duration hpart :), (congrArg Block.stat hpart :)⟩

/-- Settles O36: the first show is transmitted and counted; the elapsed time, less than a wrap, shuts the gate for the
second. -/
theorem twoSyncedShowsWithinOneIntervalTransmitOnce : Obligations.TwoSyncedShowsWithinOneIntervalTransmitOnce := by
  unfold Obligations.TwoSyncedShowsWithinOneIntervalTransmitOnce
  intro s e1 e2 answers rest order _ hb hp hl hopen hshows he1 he2 horder hev hi hsoon
  have hlong : 1000000 / s.blk.targetFps.toNat ≤ 1000000 := Nat.div_le_self _ _
  obtain ⟨u, hrun, hcfg, hinbox, hnow, hidle, hlife, hseen, hlast, hfps, hcount⟩ :=
    run_synced_show hp hl (one_le_stripCount_of_layoutOk (hb.layoutValid hl)) hopen he1 horder hev hi
  have hshut : (timeUs (takeInput e2 rest u) - u.blk.lastTxTime).toNat < 1000000 / u.blk.targetFps.toNat := by
    have hnow2 : timeUs (takeInput e2 rest u) =
        BitVec.ofNat 32 (s.env.now + e1.dt + ((answers.map fun e => e.dt).sum + e2.dt)) := by
      rw [timeUs, takeInput_env, hnow, Nat.add_assoc (s.env.now + e1.dt)]
    rw [hnow2, hlast, hfps, elapsed_toNat _ (by omega)]
    exact hsoon
  have hskip := (step_cmdWrite (w := 4) hinbox (by rw [hcfg]; exact he2)).trans
    (exec_showSynced_of_shut (s := takeInput e2 rest u) hidle hlife hseen hshut)
  have hone : u.blk.stat.shows.toNat = s.blk.stat.shows.toNat + 1 := by
    rw [hcount, sat32_toNat]
    exact min_eq_left hshows
  exact ⟨_, (run_add_of core _ 1 hrun).trans (run_succ 0 hskip), rfl, hidle, hone, rfl, rfl, rfl⟩

/-- Settles O54: what each effect does to the record, and that a host access that carries a command is that command. -/
theorem onlySuccessAndResetWriteTheStatistics : Obligations.OnlySuccessAndResetWriteTheStatistics := by
  unfold Obligations.OnlySuccessAndResetWriteTheStatistics
  intro s t hs hne
  exact (step_effect hs).2.stat_event hne

/-- Settles O1: `NOP` is accepted in every state, and its body writes `RESULT`. -/
theorem nopWritesOnlyResultOk : Obligations.NopWritesOnlyResultOk := by
  unfold Obligations.NopWritesOnlyResultOk
  exact fun s => congrArg _ (runCommand_of_accept (accept_eq_zero (fun _ => .inl rfl) fun h => absurd h (by decide)) _)

/-- Settles O5, the total of the pixels written out. -/
theorem layoutCheckIsTheThreeConditions : Obligations.LayoutCheckIsTheThreeConditions := by
  unfold Obligations.LayoutCheckIsTheThreeConditions
  exact layoutOk_iff

/-- Settles O7: the allocation is asked for, and the answer ends `INIT`. -/
theorem initAllocationFailure : Obligations.InitAllocationFailure := by
  unfold Obligations.InitAllocationFailure
  intro s hp hl hk ha
  rw [exec_init_allocate hp hl hk, initAllocate_of_fail ha]
  rfl

/-- Settles O8: both requests, then the release, in the order they were handed out. -/
theorem initConfigurationFailureReleases : Obligations.InitConfigurationFailureReleases := by
  unfold Obligations.InitConfigurationFailureReleases
  intro s hp hl hk ha hc
  rw [exec_init_allocate hp hl hk, initAllocate_of_ok ha, initConfigure_of_fail (s := emit (allocReq s.blk) s) hc,
    emit_emit_emit]
  rfl

/-- Settles O9: both requests, then the brightness cap, in the order they were handed out. -/
theorem initSucceeds : Obligations.InitSucceeds := by
  unfold Obligations.InitSucceeds
  intro s hp hl hk ha hc
  rw [exec_init_allocate hp hl hk, initAllocate_of_ok ha, initConfigure_of_ok (s := emit (allocReq s.blk) s) hc,
    successInit_emit_emit]
  rfl

/-- Settles O10, by the state the command finds: Busy, Initialized, Uninitialized. -/
theorem deinitReleasesOrDoesNothing : Obligations.DeinitReleasesOrDoesNothing := by
  unfold Obligations.DeinitReleasesOrDoesNothing
  have accepted : ∀ {s : State}, s.blk.phase = .idle → exec .deinit s = .next (deinitBody s) :=
    fun hp => congrArg _ (runCommand_of_accept (accept_idle hp (.inr (by decide))) _)
  refine fun s => ⟨fun hp => ?_, fun hp hl => ?_, fun hp hl => ?_⟩
  · exact congrArg _ (runCommand_busy hp (by decide) (by decide) _)
  · exact (accepted hp).trans (congrArg _ (if_neg (by simp [hl])))
  · exact (accepted hp).trans (congrArg _ (if_pos hl))

/-- Settles O11, by the state the command finds: Busy, NotInitialized, or the issue of an attempt. -/
theorem showIssuesOneRequestPerStrip : Obligations.ShowIssuesOneRequestPerStrip := by
  unfold Obligations.ShowIssuesOneRequestPerStrip
  refine fun s => ⟨fun hp => ?_, fun hp hl => ?_, fun hp hl => ?_⟩
  · exact congrArg _ (runCommand_busy hp (by decide) (by decide) _)
  · exact congrArg _ (runCommand_notInitialized (.inl hp) hl (by decide) _)
  · exact congrArg _ (runCommand_of_accept (accept_idle hp (.inl hl)) _)

/-- Settles O13: an Initialized block accepts the command in either phase. -/
theorem markDirtySetsOnlyTheFlag : Obligations.MarkDirtySetsOnlyTheFlag := by
  unfold Obligations.MarkDirtySetsOnlyTheFlag
  refine fun s => ⟨fun hl => ?_, fun hl => ?_⟩
  · exact congrArg _ (runCommand_of_accept (accept_eq_zero (fun _ => .inr rfl) fun _ => hl) _)
  · exact congrArg _ (runCommand_notInitialized (.inr rfl) hl (by decide) _)

/-- Settles O14: an idle block accepts the command in either lifecycle state. -/
theorem resetStatsClearsTheRecord : Obligations.ResetStatsClearsTheRecord := by
  unfold Obligations.ResetStatsClearsTheRecord
  refine fun s => ⟨fun hp => ?_, fun hp => ?_⟩
  · exact congrArg _ (runCommand_busy hp (by decide) (by decide) _)
  · exact congrArg _ (runCommand_of_accept (accept_idle hp (.inr (by decide))) _)

end Sys2Proof.Proofs
end

section
/-! SUPPORT. A read at the register its offset names, and the frame of a write: the block's fields by the register that
alone changes each (10_state.md R40, R65, 42_register_access.md R250 to R252). -/

namespace Sys2Proof.Machine

/-- A read at a named register's offset returns that register. -/
theorem regRead_named {off : BitVec 12} {s : State} {o : Nat} {r : Reg} (ho : off.toNat = o) (h4 : o % 4 = 0)
    (hr : regOf s.cfg.maxStrips o = r) : exec (.regRead off) s = .next (returnData (readReg s r) s) := by
  subst ho hr
  exact execRegRead_slot h4 s

/-- The registers whose slots R251 names one by one: the low part of the map but the 24 of `ENC_PULSE`. -/
def scalarRegs : List Reg :=
  [.id, .status, .cmd, .result, .duration, .targetFps, .intervalUs, .lastTxTime, .stripCount, .initFlags, .encColor,
    .encReset, .statShows, .statLastDur, .statMinDur, .statMaxDur, .statAvgDur, .statAvgInterval, .statFps,
    .statLastStart, .statTotalDur]

/-- Each of them is the register `regOf` gives its own offset, whatever the number of strips. -/
theorem regOf_offset_of_mem_scalarRegs {r : Reg} (h : r ∈ scalarRegs) (m : Nat) :
    r.offset < 0x100 ∧ r.offset % 4 = 0 ∧ regOf m r.offset = r := by
  have key : ∀ r ∈ scalarRegs, r.offset < 0x100 ∧ r.offset % 4 = 0 ∧ lowRegs.getD (r.offset / 4) .reserved = r := by
    decide
  obtain ⟨hlow, h4, hr⟩ := key r h
  exact ⟨hlow, h4, (if_pos hlow).trans hr⟩

theorem regRead_scalar {r : Reg} (h : r ∈ scalarRegs) (s : State) :
    exec (.regRead (BitVec.ofNat 12 r.offset)) s = .next (returnData (readReg s r) s) := by
  obtain ⟨hlow, h4, hr⟩ := regOf_offset_of_mem_scalarRegs h s.cfg.maxStrips
  exact regRead_named (by rw [BitVec.toNat_ofNat]; omega) h4 hr

/-- `ENC_PULSE[k]` reads as the descriptor `ENCODE` gives bit `23 - k` of the colour's wire word (R150, R251). -/
theorem readReg_encPulse (s : State) {k : Nat} (hk : k < 24) :
    readReg s (.encPulse k) = sel s.cfg ((wireWord s.blk.encColor).getLsbD (23 - k)) := by
  rw [readReg, List.getD_eq_getElem?_getD, pulses_getElem? _ _ _ hk, Option.getD_some]

theorem regRead_encPulse (s : State) {k : Nat} (hk : k < 24) :
    exec (.regRead (BitVec.ofNat 12 (0x030 + 4 * k))) s =
      .next (returnData (sel s.cfg ((wireWord s.blk.encColor).getLsbD (23 - k))) s) := by
  rw [← readReg_encPulse s hk]
  exact regRead_named (by rw [BitVec.toNat_ofNat]; omega) (by omega) (regOf_encPulse _ k hk)

theorem regRead_stripPixels {s : State} {k : Nat} (hk : k < s.cfg.maxStrips) (hm : s.cfg.maxStrips ≤ 16) :
    exec (.regRead (BitVec.ofNat 12 (0x100 + 8 * k))) s = .next (returnData (readReg s (.stripPixels k)) s) :=
  regRead_named (by rw [BitVec.toNat_ofNat]; omega) (by omega) (regOf_stripPixels _ k hk hm)

theorem regRead_stripOutput {s : State} {k : Nat} (hk : k < s.cfg.maxStrips) (hm : s.cfg.maxStrips ≤ 16) :
    exec (.regRead (BitVec.ofNat 12 (0x104 + 8 * k))) s = .next (returnData (readReg s (.stripOutput k)) s) :=
  regRead_named (by rw [BitVec.toNat_ofNat]; omega) (by omega) (regOf_stripOutput _ k hk hm)

/-- A slot names no register of another offset. -/
theorem regOf_ne {m o : Nat} {r : Reg} (h4 : o % 4 = 0) (hne : r ≠ .reserved) (ho : o ≠ r.offset) : regOf m o ≠ r :=
  fun hr => ho (offset_of_regOf_eq h4 hr hne).symm

/-- A list written at one index reads the same at another. -/
theorem getD_set_of_ne {α : Type} (l : List α) {i j : Nat} (h : i ≠ j) (a d : α) :
    (l.set i a).getD j d = l.getD j d := by
  rw [List.getD_eq_getElem?_getD, List.getElem?_set_ne h, List.getD_eq_getElem?_getD]

/-- A write leaves the parameters, the environment and every field of the block but those of the writable registers
(R252). -/
theorem writeReg_frame (r : Reg) (v : Word) (s : State) :
    (writeReg r v s).cfg = s.cfg ∧ (writeReg r v s).env = s.env ∧
    (writeReg r v s).blk = { s.blk with
      targetFps := (writeReg r v s).blk.targetFps, encColor := (writeReg r v s).blk.encColor,
      stripCount := (writeReg r v s).blk.stripCount, initFlags := (writeReg r v s).blk.initFlags,
      stripPixels := (writeReg r v s).blk.stripPixels, stripOutput := (writeReg r v s).blk.stripOutput } := by
  rcases writeReg_cases r v s with h | ⟨_, _, h⟩ | ⟨_, h⟩ | ⟨_, ⟨_, h⟩ | ⟨_, h⟩ | ⟨_, _, h⟩ | ⟨_, _, h⟩⟩
  all_goals rw [h]; exact ⟨rfl, rfl, rfl⟩

/-- A writable field changes by a write of its own register alone (R252). -/
theorem writeReg_field_of_ne (r : Reg) (v : Word) (s : State) :
    (r ≠ .targetFps → (writeReg r v s).blk.targetFps = s.blk.targetFps) ∧
    (r ≠ .encColor → (writeReg r v s).blk.encColor = s.blk.encColor) ∧
    (r ≠ .stripCount → (writeReg r v s).blk.stripCount = s.blk.stripCount) ∧
    (r ≠ .initFlags → (writeReg r v s).blk.initFlags = s.blk.initFlags) ∧
    (∀ k, r ≠ .stripPixels k → (writeReg r v s).blk.stripPixels.getD k 0 = s.blk.stripPixels.getD k 0) ∧
    (∀ k, r ≠ .stripOutput k → (writeReg r v s).blk.stripOutput.getD k 0 = s.blk.stripOutput.getD k 0) := by
  rcases writeReg_cases r v s with h | ⟨hr, _, h⟩ | ⟨hr, h⟩ | ⟨_, ⟨hr, h⟩ | ⟨hr, h⟩ | ⟨k, hr, h⟩ | ⟨k, hr, h⟩⟩ <;> rw [h]
  · exact ⟨fun _ => rfl, fun _ => rfl, fun _ => rfl, fun _ => rfl, fun _ _ => rfl, fun _ _ => rfl⟩
  · exact ⟨absurd hr, fun _ => rfl, fun _ => rfl, fun _ => rfl, fun _ _ => rfl, fun _ _ => rfl⟩
  · exact ⟨fun _ => rfl, absurd hr, fun _ => rfl, fun _ => rfl, fun _ _ => rfl, fun _ _ => rfl⟩
  · exact ⟨fun _ => rfl, fun _ => rfl, absurd hr, fun _ => rfl, fun _ _ => rfl, fun _ _ => rfl⟩
  · exact ⟨fun _ => rfl, fun _ => rfl, fun _ => rfl, absurd hr, fun _ _ => rfl, fun _ _ => rfl⟩
  · refine ⟨fun _ => rfl, fun _ => rfl, fun _ => rfl, fun _ => rfl, fun j hj => ?_, fun _ _ => rfl⟩
    exact getD_set_of_ne _ (fun hk => hj (hr.trans (congrArg _ hk))) _ _
  · refine ⟨fun _ => rfl, fun _ => rfl, fun _ => rfl, fun _ => rfl, fun _ _ => rfl, fun j hj => ?_⟩
    exact getD_set_of_ne _ (fun hk => hj (hr.trans (congrArg _ hk))) _ _

end Sys2Proof.Machine
end

section
/-! The statements of 42_register_access.md. -/

namespace Sys2Proof.Proofs

open Sys2Proof.Machine

/-- Settles O24, slot by slot: the register the offset names, then its value; the pairs of the list are the offsets and
the values of `scalarRegs`. -/
theorem regReadReturnsTheRegister : Obligations.RegReadReturnsTheRegister := by
  unfold Obligations.RegReadReturnsTheRegister
  rintro s ⟨⟨_, hm⟩, _⟩
  refine ⟨?_, fun k hk => regRead_encPulse s hk, fun k hk => ⟨regRead_stripPixels hk hm, regRead_stripOutput hk hm⟩,
    fun off h4 hres => regRead_named rfl h4 (regOf_reserved _ _ h4 hres)⟩
  change ∀ p ∈ scalarRegs.map fun r => (BitVec.ofNat 12 r.offset, readReg s r), _
  exact List.forall_mem_map.2 fun r hr => regRead_scalar hr s

/-- Settles O27: a write that goes on is `writeReg` of the register the offset names, and a register of another offset
is another one. -/
theorem regWriteFrame : Obligations.RegWriteFrame := by
  unfold Obligations.RegWriteFrame
  intro off v s t h8 h
  obtain ⟨hslot, rfl⟩ := regWrite_next h8 h
  obtain ⟨hcfg, henv, hblk⟩ := writeReg_frame (regOf s.cfg.maxStrips off.toNat) v s
  obtain ⟨hfps, hcolor, hcount, hflags, hpixels, houtput⟩ :=
    writeReg_field_of_ne (regOf s.cfg.maxStrips off.toNat) v s
  have other : ∀ r : Reg, r ≠ .reserved → off.toNat ≠ r.offset → regOf s.cfg.maxStrips off.toNat ≠ r :=
    fun _ => regOf_ne ((wordSlot_iff off).1 hslot)
  exact ⟨hcfg, henv, fun k => by rw [henv], hblk, fun ho => hfps (other _ (by simp) ho),
    fun ho => hcolor (other _ (by simp) ho), fun ho => hcount (other _ (by simp) ho),
    fun ho => hflags (other _ (by simp) ho), fun k ho => hpixels k (other _ (by simp) ho),
    fun k ho => houtput k (other _ (by simp) ho)⟩

end Sys2Proof.Proofs
end

section
/-! SUPPORT. The result codes by who writes them, the precision of a rejection, and the two ways a step can end
(60_exceptions.md R270 to R280, R296, 20_memory.md R96). -/

namespace Sys2Proof.Machine

open Sys2Proof.Safety

/-- An operation leaves `RESULT`, reports OK, or writes `RESULT` and nothing else (R271). -/
theorem ExecEffect.result_cases {p : Params} {i : Instr} {b b' : Block} (h : ExecEffect p i b b') :
    (b'.resCode, b'.resTx, b'.resOp) = (b.resCode, b.resTx, b.resOp) ∨ b'.resCode = 0 ∨
      b' = { b with resCode := b'.resCode, resTx := false, resOp := b'.resOp } := by
  cases h with
  | result => exact .inr (.inr rfl)
  | initialized => exact .inr (.inl rfl)
  | released => exact .inr (.inl rfl)
  | cleared => exact .inr (.inl rfl)
  | layoutWritten _ _ hw => exact .inl (by rw [hw.frame])
  | _ => exact .inl rfl

/-- An operation has one next state: a code that is not this state's is not reported. -/
theorem resCode_ne_of_exec {i : Instr} {s t u : State} {code : BitVec 4} (hu : exec i s = .next u)
    (hne : u.blk.resCode ≠ code) (h : exec i s = .next t) : t.blk.resCode ≠ code := by
  cases hu.symm.trans h
  exact hne

/-- `INIT` of an idle block runs its body (R190). -/
theorem exec_init_of_idle {s : State} (hp : s.blk.phase = .idle) : exec .init s = .next (initBody s) :=
  congrArg _ (runCommand_of_accept (accept_idle hp (.inr (by decide))) _)

/-- The body of `INIT` reports OK or one of the codes 1 to 3 (R272 to R274). -/
theorem initBody_resCode (s : State) : (initBody s).blk.resCode ∈ [0#4, 1, 2, 3] := by
  rcases initBody_cases s with ⟨_, h⟩ | ⟨_, _, ⟨_, h⟩ | ⟨_, _, h⟩ | ⟨_, _, h⟩⟩
  all_goals simp [h]

/-- `accept` raises no InvalidParameter: a command that reports it has it from its body (R275). -/
theorem body_invalidParameter {op : BitVec 4} {body : State → State} {s : State}
    (h : (runCommand op body s).blk.resCode = 1) : (body s).blk.resCode = 1 := by
  rcases runCommand_cases op body s with ⟨_, hrun⟩ | ⟨_, hrun⟩
  · rw [hrun, reject_blk] at h
    rcases accept_cases op s.blk with ⟨hacc, -⟩ | ⟨hacc, -⟩ | ⟨hacc, -⟩ <;> exact absurd (hacc.symm.trans h) (by decide)
  · rwa [hrun] at h

/-- No command but `INIT` raises InvalidParameter (R272). -/
theorem execCommand_invalidParameter {c : Command} {s t : State} (hc : c ≠ .init) (h : execCommand c s = .next t)
    (h1 : t.blk.resCode = 1) : s.blk.resCode = 1 := by
  cases c with
  | nop => cases h; exact absurd (body_invalidParameter h1) (by simp [Code.ok])
  | init => exact absurd rfl hc
  | deinit =>
    cases h
    have hbody := body_invalidParameter h1
    rcases deinitBody_cases s with ⟨_, hd⟩ | ⟨_, hd⟩ <;> exact absurd hbody (by simp [hd])
  | showFrame => cases h; exact body_invalidParameter (body := showBody) h1
  | showSynced =>
    cases h
    have hbody := body_invalidParameter h1
    rcases showSyncedBody_cases s with ⟨_, hs⟩ | ⟨_, hs⟩
    · rwa [hs] at hbody
    · exact absurd hbody (by simp [hs])
  | markDirty => cases h; exact body_invalidParameter (body := markDirtyBody) h1
  | resetStats => cases h; exact absurd (body_invalidParameter h1) (by simp)
  | illegal w => cases h; exact absurd h1 (by simp [Code.illegalCommand])

/-- `RESULT` stands as it was, all three fields of it, after a write of a register other than CMD (R252). -/
theorem regWrite_result {off : BitVec 12} {v : Word} {s t : State} (h8 : off.toNat ≠ 8)
    (h : exec (.regWrite off v) s = .next t) :
    t.blk.resCode = s.blk.resCode ∧ t.blk.resTx = s.blk.resTx ∧ t.blk.resOp = s.blk.resOp := by
  obtain ⟨-, rfl⟩ := regWrite_next h8 h
  obtain ⟨-, -, hblk⟩ := writeReg_frame (regOf s.cfg.maxStrips off.toNat) v s
  rw [hblk]
  exact ⟨rfl, rfl, rfl⟩

/-- Only an operation that carries `INIT` raises InvalidParameter (R272). -/
theorem exec_invalidParameter {i : Instr} {s t : State} (hi : ¬ Carries i .init) (h : exec i s = .next t)
    (h1 : t.blk.resCode = 1) : s.blk.resCode = 1 := by
  rcases exec_next h with ⟨c, hcarries, hc⟩ | ⟨_, _, _, rfl⟩ | ⟨_, rfl⟩ | ⟨off, v, rfl, _, h8, _⟩
  · exact execCommand_invalidParameter (fun hinit => hi (hinit ▸ hcarries)) hc h1
  · exact h1
  · exact h1
  · exact (regWrite_result h8 h).1.symm.trans h1

/-- The illegal words, by R121's two conditions. -/
theorem illegalWord_iff (w : Word) :
    illegalWord w = true ↔ w.extractLsb' 4 28 ≠ 0 ∨ 7 ≤ (w.extractLsb' 0 4).toNat := by
  simp only [illegalWord, Bool.or_eq_true, bne_iff_ne, decide_eq_true_eq]

theorem hostAccess_busError {a : Access} {addr size : Nat} {s : State}
    (h : decodeAccess s.cfg.ledcBase a = .busError addr size) : hostAccess a s = .fault (.busError addr size) := by
  rw [hostAccess, h]

/-- The window starts at a multiple of 4, so that an address is aligned iff its offset is (R93). -/
theorem wordSlot_offsetOf {base addr : Nat} (hbase : base % 4096 = 0) (hwin : inWindow base addr = true) :
    wordSlot (offsetOf base addr) = true ↔ addr % 4 = 0 := by
  have haddr := add_offsetOf hwin
  rw [wordSlot_iff]
  omega

/-- An access of the window that is not one aligned word decodes to a bus error, read or write (R96). -/
theorem decodeAccess_of_not_word {base addr size : Nat} (hwin : inWindow base addr = true)
    (hword : wordAccess base addr size = false) (v : Word) :
    decodeAccess base (.read addr size) = .busError addr size ∧
    decodeAccess base (.write addr size v) = .busError addr size := by
  simp [decodeAccess, hwin, hword]

/-- Every step goes on, or stops at a host access that decodes to a bus error (R280). -/
theorem step_outcome (s : State) :
    (∃ t, step s = .next t) ∨
    ∃ e rest a addr size, s.env.inbox = e :: rest ∧ e.ev = .host a ∧
      decodeAccess s.cfg.ledcBase a = .busError addr size ∧ step s = .fault (.busError addr size) := by
  cases hi : s.env.inbox with
  | nil => exact .inl ⟨s, step_nil hi⟩
  | cons e rest =>
    have hstep := step_cons hi
    cases hev : e.ev with
    | host a =>
      rw [hev] at hstep
      cases hd : decodeAccess s.cfg.ledcBase a with
      | busError addr size =>
        exact .inr ⟨e, rest, a, addr, size, rfl, hev, hd,
          hstep.trans (hostAccess_busError (s := takeInput e rest s) hd)⟩
      | instr i => exact .inl (step_next_of_calm hi (by simp [calmInput, hev, lawfulAccess, hd]))
      | elsewhere => exact .inl (step_next_of_calm hi (by simp [calmInput, hev, lawfulAccess, hd]))
    | _ => rw [hev] at hstep; exact .inl ⟨_, hstep⟩

end Sys2Proof.Machine
end

section
/-! The statements of 60_exceptions.md. -/

namespace Sys2Proof.Proofs

open Sys2Proof.Machine Sys2Proof.Safety

/-- Settles O4: the three commands are rejected by `accept`; the others report what their bodies do; a register write
leaves `RESULT`. -/
theorem notInitializedRejectsMutatingCommands : Obligations.NotInitializedRejectsMutatingCommands := by
  unfold Obligations.NotInitializedRejectsMutatingCommands
  intro s hp hl
  simp only [List.forall_mem_cons, List.not_mem_nil, false_imp_iff, implies_true, and_true]
  refine ⟨⟨?_, ?_, ?_⟩, ⟨fun _ => ?nop, fun _ => ?resetStats, fun _ => ?deinit, fun _ => ?init⟩,
    fun off v t h8 h => ?write⟩
  iterate 3 exact congrArg _ (runCommand_notInitialized (.inl hp) hl (by decide) _)
  case nop => exact resCode_ne_of_exec (nopWritesOnlyResultOk s) (by simp)
  case resetStats => exact resCode_ne_of_exec ((resetStatsClearsTheRecord s).2 hp) (by simp)
  case deinit => exact resCode_ne_of_exec ((deinitReleasesOrDoesNothing s).2.2 hp hl) (by simp)
  case init =>
    exact resCode_ne_of_exec (exec_init_of_idle hp) fun h5 => absurd (h5 ▸ initBody_resCode s) (by decide)
  case write => exact regWrite_result (fun hoff => h8 (BitVec.eq_of_toNat_eq hoff)) h

/-- Settles O6: the body of `INIT` rejects in the two cases, and only an operation that carries `INIT` runs that body. -/
theorem invalidParameterIsInitsAlone : Obligations.InvalidParameterIsInitsAlone := by
  unfold Obligations.InvalidParameterIsInitsAlone
  refine ⟨fun s hp hbad => ?_, fun i s t hinit hwrite h h1 => exec_invalidParameter ?_ h h1⟩
  · rw [exec_init_of_idle hp]
    rcases initBody_cases s with ⟨_, hbody⟩ | ⟨hl, hk, _⟩
    · rw [hbody]
      rfl
    · simp [hl, hk] at hbad
  · rintro (rfl | ⟨off, v, rfl, h8, _⟩)
    · exact hinit rfl
    · exact hwrite v (by rw [BitVec.eq_of_toNat_eq (y := 0x008) h8])

/-- Settles O15: of the effects of an operation, one alone writes a code other than OK, and it writes nothing else. -/
theorem rejectionIsPrecise : Obligations.RejectionIsPrecise := by
  unfold Obligations.RejectionIsPrecise
  intro i s t h hcode hnew
  rcases (exec_effect h).2.result_cases with hsame | hok | honly
  · exact absurd hsame hnew
  · exact absurd hok hcode
  · exact honly

/-- Settles O45: a step that does not go on is the bus error of an access the host's duty forbids. -/
theorem onlyUnlawfulAccessesStop : Obligations.OnlyUnlawfulAccessesStop := by
  unfold Obligations.OnlyUnlawfulAccessesStop
  refine ⟨fun s r h => ?_, fun s f h => ?_, fun s hduty => ?_⟩
  all_goals rcases step_outcome s with ⟨t, hnext⟩ | ⟨e, rest, a, addr, size, hi, hev, hd, hfault⟩
  · cases hnext.symm.trans h
  · cases hfault.symm.trans h
  · cases hnext.symm.trans h
  · obtain ⟨dt, ev, d⟩ := e
    exact ⟨dt, a, d, rest, by rw [hi, ← hev], by rw [lawfulAccess, hd]⟩
  · exact ⟨t, hnext⟩
  · have hlawful := hduty e (by rw [hi]; exact List.mem_cons_self) a hev
    rw [lawfulAccess, hd] at hlawful
    cases hlawful

/-- Settles O2: the word is illegal by R121, and the rejection is before every other check. -/
theorem illegalWordReportsIllegalCommand : Obligations.IllegalWordReportsIllegalCommand := by
  unfold Obligations.IllegalWordReportsIllegalCommand
  exact fun w s h => ⟨decodeCommand_of_illegalWord ((illegalWord_iff w).2 h), rfl⟩

/-- Settles O3: five commands are rejected by `accept`; `NOP` reports OK, and `MARK_DIRTY` leaves the code or reports
NotInitialized. -/
theorem busyRejectsAllButNopAndMarkDirty : Obligations.BusyRejectsAllButNopAndMarkDirty := by
  unfold Obligations.BusyRejectsAllButNopAndMarkDirty
  intro s hp
  simp only [List.forall_mem_cons, List.not_mem_nil, false_imp_iff, implies_true, and_true]
  refine ⟨⟨?_, ?_, ?_, ?_, ?_⟩, fun t h h6 => ?nop, fun t h h6 => ?markDirty⟩
  iterate 5 exact congrArg _ (runCommand_busy hp (by decide) (by decide) _)
  case nop => exact absurd h6 (resCode_ne_of_exec (nopWritesOnlyResultOk s) (by simp) h)
  case markDirty =>
    obtain ⟨hset, hrejected⟩ := markDirtySetsOnlyTheFlag s
    cases hl : s.blk.life with
    | initialized =>
      cases (hset hl).symm.trans h
      exact h6
    | uninitialized => exact absurd h6 (resCode_ne_of_exec (hrejected hl) (by simp) h)

/-- Settles O44: the access decodes to the bus error before it reaches an operation. -/
theorem unalignedOrNarrowAccessIsABusError : Obligations.UnalignedOrNarrowAccessIsABusError := by
  unfold Obligations.UnalignedOrNarrowAccessIsABusError
  rintro s dt addr size v d rest ⟨_, _, _, _, _, _, _, hbase⟩ hlo hhi hbad
  have hwin : inWindow s.cfg.ledcBase addr = true := by simp [inWindow, hlo, hhi]
  have hword : wordAccess s.cfg.ledcBase addr size = false := by
    rw [Bool.eq_false_iff, Ne, wordAccess_iff, wordSlot_offsetOf hbase hwin]
    tauto
  obtain ⟨hread, hwrite⟩ := decodeAccess_of_not_word hwin hword v
  exact ⟨fun hi => (step_cons hi).trans (hostAccess_busError hread),
    fun hi => (step_cons hi).trans (hostAccess_busError hwrite)⟩

end Sys2Proof.Proofs
end

section
/-! SUPPORT. The ticks of a strip's list: each pixel descriptor is a bit profile, and the last one is the reset pulse
(70_reset_and_hazards.md R336). -/

namespace Sys2Proof.Machine

/-- A profile of either bit lasts as long as the two profiles do (R151, R152). -/
theorem ticks_sel {p : Params} {ticks : Nat} (h0 : p.t0h.toNat + p.t0l.toNat = ticks)
    (h1 : p.t1h.toNat + p.t1l.toNat = ticks) (bit : Bool) :
    highTicks (sel p bit) + lowTicks (sel p bit) = ticks := by
  cases bit with
  | false => simpa [sel, profile0] using h0
  | true => simpa [sel, profile1] using h1

/-- Every pixel descriptor is the profile of some bit, whatever the colour (R150, R204). -/
theorem exists_sel_of_mem_pixelPulses {p : Params} {pipe : Pipeline} {fb : Memory} {i n : Nat} {d : Desc}
    (h : d ∈ pixelPulses p pipe fb i n) : ∃ bit, d = sel p bit := by
  obtain ⟨j, -, hd⟩ := List.mem_flatMap.1 h
  obtain ⟨k, -, hk⟩ := List.mem_map.1 hd
  exact ⟨_, hk.symm⟩

theorem wireTicks_of_forall_ticks_eq {l : List Desc} {ticks : Nat}
    (h : ∀ d ∈ l, highTicks d + lowTicks d = ticks) : wireTicks l = l.length * ticks := by
  rw [wireTicks, List.sum_eq_card_nsmul _ ticks (List.forall_mem_map.2 h), List.length_map, smul_eq_mul]

theorem wireTicks_resetPulse (p : Params) : wireTicks [resetPulse p] = p.resetTicks.toNat := by
  simp [wireTicks]

end Sys2Proof.Machine
end

section
/-! The statement of 70_reset_and_hazards.md. -/

namespace Sys2Proof.Proofs

open Sys2Proof.Machine

/-- Settles O22: every pixel descriptor lasts the same, so the ticks before the reset pulse are the number of descriptors
times that. -/
theorem wireTimeIsTheSameForEveryColour : Obligations.WireTimeIsTheSameForEveryColour := by
  unfold Obligations.WireTimeIsTheSameForEveryColour
  intro p pipe fb b k bit h0 h1
  have hpixels : wireTicks (pixelPulses p pipe fb (baseOf b k) (pixelsOf b k)) = 24 * pixelsOf b k * bit := by
    rw [wireTicks_of_forall_ticks_eq (ticks := bit), pixelPulses_length]
    intro d hd
    obtain ⟨v, rfl⟩ := exists_sel_of_mem_pixelPulses hd
    exact ticks_sel h0 h1 v
  rw [wireTime, stripList, wireTicks_append, hpixels, wireTicks_resetPulse]

end Sys2Proof.Proofs
end

section
/-! SUPPORT. The front buffer's form is kept by each event: a paint and a swap make a canonical buffer, and nothing else
writes it (20_memory.md section 1). -/

namespace Sys2Proof.Machine

theorem paint_fb (i : Nat) (c : Color) (s : State) : (paint i c s).env.fb = s.env.fb.write i c := by
  rw [paint_env]

theorem swapBuffers_fb (buf : List (Nat × Color)) (s : State) : (swapBuffers buf s).env.fb = Memory.ofList buf := by
  rw [swapBuffers_env]

theorem runEvent_fb_wf {ev : Event} {s t : State} (hw : s.env.fb.wf) (h : runEvent ev s = .next t) : t.env.fb.wf := by
  cases ev with
  | host a =>
    rcases hostAccess_cases h with ⟨i, _, hi⟩ | ⟨_, rfl⟩
    · rw [exec_fb hi]
      exact hw
    · exact hw
  | answer k a =>
    cases h
    rw [answer_env]
    exact hw
  | reset => cases h; exact hw
  | paint i c =>
    cases h
    rw [paint_fb]
    exact Memory.write_wf hw i c
  | swap buf =>
    cases h
    rw [swapBuffers_fb]
    exact Memory.ofList_wf buf
  | pipeline p => cases h; exact hw

end Sys2Proof.Machine
end

section
/-! The invariant of 20_memory.md. -/

namespace Sys2Proof.Proofs

open Sys2Proof.Machine

/-- Settles O49: taking an input leaves the buffer, and its event keeps the form. -/
theorem everyStepKeepsTheFrontBufferCanonical : Obligations.EveryStepKeepsTheFrontBufferCanonical := by
  unfold Obligations.EveryStepKeepsTheFrontBufferCanonical
  intro s t hw h
  rcases step_cases h with ⟨_, rfl⟩ | ⟨_, _, _, he⟩
  · exact hw
  · exact runEvent_fb_wf (by exact hw) he

end Sys2Proof.Proofs
end
